-- ==== Sys2Proof/Word.lean ====
section
/-! DEFINITION. The word types of the ChipOxide CHIP-8 core (00_scope.md R5, R8): every value is unsigned. -/

namespace Sys2Proof

/-- A register, timer or memory value (R5 REG_W, TIMER_W): 8 bits. -/
abbrev Byte := BitVec 8

/-- An instruction word, a value of `I` or of `PC` (R5 INSTR_W, I_W, PC_W): 16 bits. -/
abbrev Word := BitVec 16

/-- A register number, and the row count of Draw (30_encoding.md R61): a 4-bit field. -/
abbrev Nibble := BitVec 4

/-- The `nnn` field (30_encoding.md R61): a 12-bit address. -/
abbrev Addr12 := BitVec 12

end Sys2Proof
end

