-- ==== Sys2Proof/Syntax.lean ====
section
/-! DEFINITION. The 34 instruction variants of 30_encoding.md R65, one constructor per row, in the table's order. -/

namespace Sys2Proof

/-- A decoded instruction (30_encoding.md R65): the variant and the operand fields its row names. -/
inductive Instr where
  /-- `00E0` -/
  | clear
  /-- `00EE`, the variant Return -/
  | ret
  /-- `1nnn` -/
  | jump (nnn : Addr12)
  /-- `2nnn` -/
  | call (nnn : Addr12)
  /-- `3xnn` -/
  | skipEqImm (x : Nibble) (nn : Byte)
  /-- `4xnn` -/
  | skipNeqImm (x : Nibble) (nn : Byte)
  /-- `5xy0` -/
  | skipEqReg (x y : Nibble)
  /-- `6xnn` -/
  | loadImm (x : Nibble) (nn : Byte)
  /-- `7xnn` -/
  | addImm (x : Nibble) (nn : Byte)
  /-- `8xy0` -/
  | move (x y : Nibble)
  /-- `8xy1` -/
  | or (x y : Nibble)
  /-- `8xy2` -/
  | and (x y : Nibble)
  /-- `8xy3` -/
  | xor (x y : Nibble)
  /-- `8xy4` -/
  | addReg (x y : Nibble)
  /-- `8xy5` -/
  | subXY (x y : Nibble)
  /-- `8xy6` -/
  | shiftRight (x y : Nibble)
  /-- `8xy7` -/
  | subYX (x y : Nibble)
  /-- `8xyE` -/
  | shiftLeft (x y : Nibble)
  /-- `9xy0` -/
  | skipNeqReg (x y : Nibble)
  /-- `Annn` -/
  | loadIndex (nnn : Addr12)
  /-- `Bxnn`: both fields of R69, `x` being the top nibble of `nnn` (checked by `Instr.wellFormed`) -/
  | jumpOffset (nnn : Addr12) (x : Nibble)
  /-- `Cxnn` -/
  | random (x : Nibble) (nn : Byte)
  /-- `Dxyn` -/
  | draw (x y n : Nibble)
  /-- `Ex9E` -/
  | skipKeyDown (x : Nibble)
  /-- `ExA1` -/
  | skipKeyUp (x : Nibble)
  /-- `Fx07` -/
  | getDelay (x : Nibble)
  /-- `Fx0A` -/
  | waitKey (x : Nibble)
  /-- `Fx15` -/
  | setDelay (x : Nibble)
  /-- `Fx18` -/
  | setSound (x : Nibble)
  /-- `Fx1E` -/
  | addIndex (x : Nibble)
  /-- `Fx29` -/
  | loadFontAddr (x : Nibble)
  /-- `Fx33` -/
  | storeBCD (x : Nibble)
  /-- `Fx55` -/
  | storeRegisters (x : Nibble)
  /-- `Fx65` -/
  | loadRegisters (x : Nibble)
  deriving DecidableEq, Repr

end Sys2Proof
end

