-- ==== Sys2Proof/WellFormed.lean ====
section
/-! DEFINITION. Which terms of `Instr` are instructions of the hardware. The operand fields have their widths by type
(30_encoding.md R63: every value of every field is legal), so one check is left: JumpOffset's overlapping fields. -/

namespace Sys2Proof

/-- R69: JumpOffset's `x` is bits 11 to 8 of its `nnn`; every other term is well formed (R63, R67). -/
def Instr.wellFormed : Instr → Bool
  | .jumpOffset nnn x => x == nnn.extractLsb' 8 4
  | .clear | .ret | .jump _ | .call _ | .skipEqImm _ _ | .skipNeqImm _ _ | .skipEqReg _ _ | .loadImm _ _
  | .addImm _ _ | .move _ _ | .or _ _ | .and _ _ | .xor _ _ | .addReg _ _ | .subXY _ _ | .shiftRight _ _
  | .subYX _ _ | .shiftLeft _ _ | .skipNeqReg _ _ | .loadIndex _ | .random _ _ | .draw _ _ _ | .skipKeyDown _
  | .skipKeyUp _ | .getDelay _ | .waitKey _ | .setDelay _ | .setSound _ | .addIndex _ | .loadFontAddr _
  | .storeBCD _ | .storeRegisters _ | .loadRegisters _ => true

end Sys2Proof
end

