-- ==== Sys2Proof/Decode.lean ====
section
/-! DEFINITION. The decoder of 30_encoding.md (R60 to R70), total on words and on byte strings and refusing by name;
the encoder, written from the same table; and the opcode table itself as data (R65). -/

namespace Sys2Proof

/-- Why bytes are no instruction. -/
inductive DecodeFailure where
  /-- R64, R66: the word matches no row of the opcode table; it carries the word. -/
  | illegalWord (w : Word)
  /-- Fewer than two bytes were given, so there is no word (R60); the machine's fetch never gives fewer. -/
  | truncated
  deriving DecidableEq, Repr

/-- R61: `op` is the top nibble. -/
def fieldOp (w : Word) : Nibble := w.extractLsb' 12 4
/-- R61: bits 11 to 8. -/
def fieldX (w : Word) : Nibble := w.extractLsb' 8 4
/-- R61: bits 7 to 4. -/
def fieldY (w : Word) : Nibble := w.extractLsb' 4 4
/-- R61: bits 3 to 0. -/
def fieldN (w : Word) : Nibble := w.extractLsb' 0 4
/-- R61: the low byte. -/
def fieldNN (w : Word) : Byte := w.extractLsb' 0 8
/-- R61: the low 12 bits. -/
def fieldNNN (w : Word) : Addr12 := w.extractLsb' 0 12

/-- R70: in the group with top nibble 0 only two words are instructions. -/
def decodeGroup0 (w : Word) : Except DecodeFailure Instr :=
  if w = 0x00E0 then .ok .clear else if w = 0x00EE then .ok .ret else .error (.illegalWord w)

/-- R65: the nine variants with top nibble 8, selected by `n`. -/
def decodeGroup8 (w : Word) : Except DecodeFailure Instr :=
  match (fieldN w).toNat with
  | 0x0 => .ok (.move (fieldX w) (fieldY w))
  | 0x1 => .ok (.or (fieldX w) (fieldY w))
  | 0x2 => .ok (.and (fieldX w) (fieldY w))
  | 0x3 => .ok (.xor (fieldX w) (fieldY w))
  | 0x4 => .ok (.addReg (fieldX w) (fieldY w))
  | 0x5 => .ok (.subXY (fieldX w) (fieldY w))
  | 0x6 => .ok (.shiftRight (fieldX w) (fieldY w))
  | 0x7 => .ok (.subYX (fieldX w) (fieldY w))
  | 0xE => .ok (.shiftLeft (fieldX w) (fieldY w))
  | _ => .error (.illegalWord w)

/-- R65: the two variants with top nibble E, selected by `nn`. -/
def decodeGroupE (w : Word) : Except DecodeFailure Instr :=
  if fieldNN w = 0x9E then .ok (.skipKeyDown (fieldX w))
  else if fieldNN w = 0xA1 then .ok (.skipKeyUp (fieldX w))
  else .error (.illegalWord w)

/-- R65: the nine variants with top nibble F, selected by `nn`. -/
def decodeGroupF (w : Word) : Except DecodeFailure Instr :=
  if fieldNN w = 0x07 then .ok (.getDelay (fieldX w))
  else if fieldNN w = 0x0A then .ok (.waitKey (fieldX w))
  else if fieldNN w = 0x15 then .ok (.setDelay (fieldX w))
  else if fieldNN w = 0x18 then .ok (.setSound (fieldX w))
  else if fieldNN w = 0x1E then .ok (.addIndex (fieldX w))
  else if fieldNN w = 0x29 then .ok (.loadFontAddr (fieldX w))
  else if fieldNN w = 0x33 then .ok (.storeBCD (fieldX w))
  else if fieldNN w = 0x55 then .ok (.storeRegisters (fieldX w))
  else if fieldNN w = 0x65 then .ok (.loadRegisters (fieldX w))
  else .error (.illegalWord w)

/-- R64: the decode function, total on the 65536 words. -/
def decode (w : Word) : Except DecodeFailure Instr :=
  match (fieldOp w).toNat with
  | 0x0 => decodeGroup0 w
  | 0x1 => .ok (.jump (fieldNNN w))
  | 0x2 => .ok (.call (fieldNNN w))
  | 0x3 => .ok (.skipEqImm (fieldX w) (fieldNN w))
  | 0x4 => .ok (.skipNeqImm (fieldX w) (fieldNN w))
  | 0x5 => if fieldN w = 0 then .ok (.skipEqReg (fieldX w) (fieldY w)) else .error (.illegalWord w)
  | 0x6 => .ok (.loadImm (fieldX w) (fieldNN w))
  | 0x7 => .ok (.addImm (fieldX w) (fieldNN w))
  | 0x8 => decodeGroup8 w
  | 0x9 => if fieldN w = 0 then .ok (.skipNeqReg (fieldX w) (fieldY w)) else .error (.illegalWord w)
  | 0xA => .ok (.loadIndex (fieldNNN w))
  | 0xB => .ok (.jumpOffset (fieldNNN w) (fieldX w))
  | 0xC => .ok (.random (fieldX w) (fieldNN w))
  | 0xD => .ok (.draw (fieldX w) (fieldY w) (fieldN w))
  | 0xE => decodeGroupE w
  | _ => decodeGroupF w

/-- R60, R43: a word is two consecutive bytes, the high byte first. -/
def wordOfBytes (hi lo : Byte) : Word := hi ++ lo

/-- The decoder on bytes: the instruction at the front and the bytes after it (R60, R64). -/
def decodeBytes : List Byte → Except DecodeFailure (Instr × List Byte)
  | hi :: lo :: rest =>
    match decode (wordOfBytes hi lo) with
    | .ok i => .ok (i, rest)
    | .error f => .error f
  | _ => .error .truncated

/-- Format XY of R62: `h x y h`. -/
def formatXY (op : Nibble) (x y : Nibble) (funct : Nibble) : Word := op ++ x ++ y ++ funct
/-- Format XI of R62: `h x nn`. -/
def formatXI (op : Nibble) (x : Nibble) (nn : Byte) : Word := op ++ x ++ nn
/-- Formats A and BX of R62: `h nnn`. -/
def formatA (op : Nibble) (nnn : Addr12) : Word := op ++ nnn

/-- The word of an instruction, from the patterns of R65; JumpOffset's `x` has no bits of its own (R69). -/
def encode : Instr → Word
  | .clear => 0x00E0
  | .ret => 0x00EE
  | .jump nnn => formatA 0x1 nnn
  | .call nnn => formatA 0x2 nnn
  | .skipEqImm x nn => formatXI 0x3 x nn
  | .skipNeqImm x nn => formatXI 0x4 x nn
  | .skipEqReg x y => formatXY 0x5 x y 0x0
  | .loadImm x nn => formatXI 0x6 x nn
  | .addImm x nn => formatXI 0x7 x nn
  | .move x y => formatXY 0x8 x y 0x0
  | .or x y => formatXY 0x8 x y 0x1
  | .and x y => formatXY 0x8 x y 0x2
  | .xor x y => formatXY 0x8 x y 0x3
  | .addReg x y => formatXY 0x8 x y 0x4
  | .subXY x y => formatXY 0x8 x y 0x5
  | .shiftRight x y => formatXY 0x8 x y 0x6
  | .subYX x y => formatXY 0x8 x y 0x7
  | .shiftLeft x y => formatXY 0x8 x y 0xE
  | .skipNeqReg x y => formatXY 0x9 x y 0x0
  | .loadIndex nnn => formatA 0xA nnn
  | .jumpOffset nnn _ => formatA 0xB nnn
  | .random x nn => formatXI 0xC x nn
  | .draw x y n => formatXY 0xD x y n
  | .skipKeyDown x => formatXI 0xE x 0x9E
  | .skipKeyUp x => formatXI 0xE x 0xA1
  | .getDelay x => formatXI 0xF x 0x07
  | .waitKey x => formatXI 0xF x 0x0A
  | .setDelay x => formatXI 0xF x 0x15
  | .setSound x => formatXI 0xF x 0x18
  | .addIndex x => formatXI 0xF x 0x1E
  | .loadFontAddr x => formatXI 0xF x 0x29
  | .storeBCD x => formatXI 0xF x 0x33
  | .storeRegisters x => formatXI 0xF x 0x55
  | .loadRegisters x => formatXI 0xF x 0x65

/-- The two bytes of an instruction in memory order (R43). -/
def encodeBytes (i : Instr) : List Byte := [(encode i).extractLsb' 8 8, (encode i).extractLsb' 0 8]

/-- A row of the opcode map of R65: a word `w` is this variant exactly when `w &&& mask = bits`. -/
structure OpcodeRow where
  mnemonic : String
  bits : Word
  mask : Word
  deriving DecidableEq, Repr

/-- The row of R65 of an instruction's variant. -/
def Instr.row : Instr → OpcodeRow
  | .clear => ⟨"Clear", 0x00E0, 0xFFFF⟩
  | .ret => ⟨"Return", 0x00EE, 0xFFFF⟩
  | .jump _ => ⟨"Jump", 0x1000, 0xF000⟩
  | .call _ => ⟨"Call", 0x2000, 0xF000⟩
  | .skipEqImm _ _ => ⟨"SkipEqImm", 0x3000, 0xF000⟩
  | .skipNeqImm _ _ => ⟨"SkipNeqImm", 0x4000, 0xF000⟩
  | .skipEqReg _ _ => ⟨"SkipEqReg", 0x5000, 0xF00F⟩
  | .loadImm _ _ => ⟨"LoadImm", 0x6000, 0xF000⟩
  | .addImm _ _ => ⟨"AddImm", 0x7000, 0xF000⟩
  | .move _ _ => ⟨"Move", 0x8000, 0xF00F⟩
  | .or _ _ => ⟨"Or", 0x8001, 0xF00F⟩
  | .and _ _ => ⟨"And", 0x8002, 0xF00F⟩
  | .xor _ _ => ⟨"Xor", 0x8003, 0xF00F⟩
  | .addReg _ _ => ⟨"AddReg", 0x8004, 0xF00F⟩
  | .subXY _ _ => ⟨"SubXY", 0x8005, 0xF00F⟩
  | .shiftRight _ _ => ⟨"ShiftRight", 0x8006, 0xF00F⟩
  | .subYX _ _ => ⟨"SubYX", 0x8007, 0xF00F⟩
  | .shiftLeft _ _ => ⟨"ShiftLeft", 0x800E, 0xF00F⟩
  | .skipNeqReg _ _ => ⟨"SkipNeqReg", 0x9000, 0xF00F⟩
  | .loadIndex _ => ⟨"LoadIndex", 0xA000, 0xF000⟩
  | .jumpOffset _ _ => ⟨"JumpOffset", 0xB000, 0xF000⟩
  | .random _ _ => ⟨"Random", 0xC000, 0xF000⟩
  | .draw _ _ _ => ⟨"Draw", 0xD000, 0xF000⟩
  | .skipKeyDown _ => ⟨"SkipKeyDown", 0xE09E, 0xF0FF⟩
  | .skipKeyUp _ => ⟨"SkipKeyUp", 0xE0A1, 0xF0FF⟩
  | .getDelay _ => ⟨"GetDelay", 0xF007, 0xF0FF⟩
  | .waitKey _ => ⟨"WaitKey", 0xF00A, 0xF0FF⟩
  | .setDelay _ => ⟨"SetDelay", 0xF015, 0xF0FF⟩
  | .setSound _ => ⟨"SetSound", 0xF018, 0xF0FF⟩
  | .addIndex _ => ⟨"AddIndex", 0xF01E, 0xF0FF⟩
  | .loadFontAddr _ => ⟨"LoadFontAddr", 0xF029, 0xF0FF⟩
  | .storeBCD _ => ⟨"StoreBCD", 0xF033, 0xF0FF⟩
  | .storeRegisters _ => ⟨"StoreRegisters", 0xF055, 0xF0FF⟩
  | .loadRegisters _ => ⟨"LoadRegisters", 0xF065, 0xF0FF⟩

/-- The 34 rows of R65 in the table's order. -/
def opcodeTable : List OpcodeRow :=
  [Instr.row .clear, Instr.row .ret, Instr.row (.jump 0), Instr.row (.call 0), Instr.row (.skipEqImm 0 0),
    Instr.row (.skipNeqImm 0 0), Instr.row (.skipEqReg 0 0), Instr.row (.loadImm 0 0), Instr.row (.addImm 0 0)] ++
  [Instr.row (.move 0 0), Instr.row (.or 0 0), Instr.row (.and 0 0), Instr.row (.xor 0 0), Instr.row (.addReg 0 0),
    Instr.row (.subXY 0 0), Instr.row (.shiftRight 0 0), Instr.row (.subYX 0 0), Instr.row (.shiftLeft 0 0)] ++
  [Instr.row (.skipNeqReg 0 0), Instr.row (.loadIndex 0), Instr.row (.jumpOffset 0 0), Instr.row (.random 0 0),
    Instr.row (.draw 0 0 0), Instr.row (.skipKeyDown 0), Instr.row (.skipKeyUp 0)] ++
  [Instr.row (.getDelay 0), Instr.row (.waitKey 0), Instr.row (.setDelay 0), Instr.row (.setSound 0),
    Instr.row (.addIndex 0), Instr.row (.loadFontAddr 0), Instr.row (.storeBCD 0), Instr.row (.storeRegisters 0),
    Instr.row (.loadRegisters 0)]

/-- The word of a table row's bits: the low `nbits` bits of `w`, every bit above them 0. -/
def tableWord (nbits w : Nat) : Word := BitVec.ofNat 16 (w % 2 ^ nbits)

/-- The bytes of a table row's word as the hardware stores them, high byte first (R43). -/
def tableBytes (nbits w : Nat) : List Byte :=
  [(tableWord nbits w).extractLsb' 8 8, (tableWord nbits w).extractLsb' 0 8]

/-- The instruction the decoder reads from the bits `w` of a row of spec/opcode_table.json. -/
def decodeTableWord (nbits w : Nat) : Option Instr :=
  match decodeBytes (tableBytes nbits w) with
  | .ok (i, _) => some i
  | .error _ => none

end Sys2Proof
end

