-- ==== Sys2Proof/Config.lean ====
section
/-! DEFINITION. What is fixed at construction (00_scope.md R6, R7), and the free values of the boundary and of the
random source. A configuration is plain data carried by the state, so that a statement about every state is a
statement about every configuration (log 1). -/

namespace Sys2Proof

/-- The open parameter SHL_FLAG_BIT of R6: 0 or 7. -/
inductive ShlFlagBit where
  | bit0
  | bit7
  deriving DecidableEq, Repr

/-- The bit number a `ShlFlagBit` names (R6). -/
def ShlFlagBit.index : ShlFlagBit → Nat
  | .bit0 => 0
  | .bit7 => 7

/-- The straps of R7 and the open parameters of R6. No instruction reads `timerHz` and none writes any of them. -/
structure Config where
  /-- R7: the quirk selector, read by ShiftRight, ShiftLeft and JumpOffset only. -/
  legacy : Bool
  /-- R7: how many steps run between two ticks. -/
  opcodesPerCycle : Nat
  /-- R7: the requested tick rate; nothing the core can observe depends on it. -/
  timerHz : Nat
  /-- R6 WIDTH: framebuffer columns. -/
  width : Nat
  /-- R6 HEIGHT: framebuffer rows. -/
  height : Nat
  /-- R6 FONT: the bytes at addresses 0 to 79 after construction. -/
  font : Vector Byte 80
  /-- R6 SHL_FLAG_BIT: the flag bit of the non-legacy ShiftLeft. -/
  shlFlagBit : ShlFlagBit
  deriving DecidableEq, Repr

/-- The customary font table of 20_memory.md R42, which the spec takes from general knowledge (PRESUMED, log 3). -/
def Config.customaryFont : Vector Byte 80 := #v[
  0xF0, 0x90, 0x90, 0x90, 0xF0,  0x20, 0x60, 0x20, 0x20, 0x70,
  0xF0, 0x10, 0xF0, 0x80, 0xF0,  0xF0, 0x10, 0xF0, 0x10, 0xF0,
  0x90, 0x90, 0xF0, 0x10, 0x10,  0xF0, 0x80, 0xF0, 0x10, 0xF0,
  0xF0, 0x80, 0xF0, 0x90, 0xF0,  0xF0, 0x10, 0x20, 0x40, 0x40,
  0xF0, 0x90, 0xF0, 0x90, 0xF0,  0xF0, 0x90, 0xF0, 0x10, 0xF0,
  0xF0, 0x90, 0xF0, 0x90, 0x90,  0xE0, 0x90, 0xE0, 0x90, 0xE0,
  0xF0, 0x80, 0x80, 0x80, 0xF0,  0xE0, 0x90, 0x90, 0x90, 0xE0,
  0xF0, 0x80, 0xF0, 0x80, 0xF0,  0xF0, 0x80, 0xF0, 0x80, 0x80]

/-- The configuration `State.reset` is built with: the usual values of R6 and the conventions of 95_test_vectors.md
section 0 (DESIGN CHOICE and PRESUMED, log 1 to 5). No statement of the model rests on it but those about reset. -/
def Config.customary : Config where
  legacy := false
  opcodesPerCycle := 1
  timerHz := 60
  width := 64
  height := 32
  font := Config.customaryFont
  shlFlagBit := .bit0

/-- What a call of `update_screen`, `start_beep` or `end_beep` answers (60_exceptions.md R167, R169, R170). -/
inductive BoundaryReply where
  | ok
  | error
  deriving DecidableEq, Repr, Inhabited

/-- An answer of `get_key` (60_exceptions.md R165, R168): no event waiting, one key-state change, or an error. -/
inductive KeyReply where
  | noEvent
  | event (key : Fin 16) (pressed : Bool)
  | error
  deriving DecidableEq, Repr, Inhabited

/-- FREE VALUE (log 6): the boundary's answer to the call that takes free value number `n`; nothing constrains it
(93_implementation_defined.md U14). -/
opaque Config.freeReply (n : Nat) : BoundaryReply

/-- FREE VALUE (log 7): the answer of `get_key` that takes free value number `n`; nothing constrains it, so every
sequence of answers is allowed for (60_exceptions.md R168, 93_implementation_defined.md U14). -/
opaque Config.freeKeyReply (n : Nat) : KeyReply

/-- FREE VALUE (log 8): the byte of the random source that takes free value number `n`; nothing constrains it
(60_exceptions.md R171, 93_implementation_defined.md U4). -/
opaque Config.freeByte (n : Nat) : Byte

end Sys2Proof
end

