-- ==== Sys2Proof/Machine/State.lean ====
section
/-! DEFINITION. The state of the ChipOxide CHIP-8 core: the tuple of 10_state.md R10, the position in the run loop's
schedule (60_exceptions.md R166), the configuration (00_scope.md R6, R7) and the outside world's inputs and the
requests made to it (R24), all of it plain data. -/

namespace Sys2Proof.Machine

/-- The kind of a memory access, recorded in an AddressFault (20_memory.md R46). -/
inductive AccessKind where
  | fetch
  | read
  | write
  deriving DecidableEq, Repr

/-- The four boundary calls (60_exceptions.md R167), recorded in an IOError (R152). -/
inductive BoundaryCall where
  | getKey
  | updateScreen
  | startBeep
  | endBeep
  deriving DecidableEq, Repr

/-- The faults of 60_exceptions.md R150. Raising one writes it to `State.halt` in a next state (`State.raise`); `step`
at a machine halted by it answers it as the outcome `fault`. All are safe: the machine stops where the spec stops it
(for the last three by the spec's own decisions D3, D4, D5), and a claim about a machine that goes on becomes
unprovable. -/
inductive Fault where
  /-- R151, raised by the instruction step: the fetched word matches no row of the opcode map. Safe. -/
  | decodeError (w : Word)
  /-- R152, raised by the key poll, the tick, Draw and SetSound: the boundary answered error. Safe. -/
  | ioError (call : BoundaryCall)
  /-- R153, raised by the fetch, Draw, StoreBCD, StoreRegisters and LoadRegisters: an address above 4095; `addr` is the
  first address of the access. Safe. -/
  | addressFault (kind : AccessKind) (addr : Nat)
  /-- R154, raised by Return: the stack is empty. Safe. -/
  | stackUnderflow
  /-- R155, raised by SkipKeyDown and SkipKeyUp: the register holds `k`, above 15. Safe. -/
  | keyIndexFault (k : Byte)
  deriving DecidableEq, Repr

/-- What has no meaning in the model. -/
inductive Refusal where
  /-- Raised by an arm of `exec` whose instruction has no meaning yet: none is left. Safe. -/
  | notModelled (mnemonic : String)
  /-- Raised by `construct` only (70_reset_and_hazards.md R183, R184): the configuration is invalid and no machine
  exists. Safe. -/
  | invalidConfiguration
  /-- Raised by `construct` only (R183): the program image of this length does not fit. Safe. -/
  | imageTooLong (length : Nat)
  deriving DecidableEq, Repr

/-- HALT of 10_state.md R23. -/
inductive Halt where
  | running
  | halted (f : Fault)
  deriving DecidableEq, Repr

/-- MEM of 10_state.md R21: the bytes that differ from the reset contents, by rising address. -/
abbrev Memory := List Host.Cell

/-- FB of 10_state.md R20: HEIGHT rows, row 0 first, of WIDTH cells, column 0 first; `true` is a lit pixel. -/
abbrev FrameBuffer := List (List Bool)

/-- A request the core makes of the boundary (60_exceptions.md R164, R170); `update_screen` carries the whole grid. -/
inductive BoundaryEvent where
  | updateScreen (frame : FrameBuffer)
  | startBeep
  | endBeep
  deriving DecidableEq, Repr

/-- The outside of the core (10_state.md R24), in the model's own fields: what it will answer, and what it was asked.
A statement about every state is a statement about every outside world. -/
structure Env where
  /-- The answers of the coming `get_key` calls, the next one first; when none is left the answer is the free value
  `Config.freeKeyReply` (60_exceptions.md R168; log 7). -/
  keyReplies : List KeyReply
  /-- The answers of the coming `update_screen`, `start_beep` and `end_beep` calls, the next one first; when none is
  left the answer is the free value `Config.freeReply` (R152; log 6). -/
  replies : List BoundaryReply
  /-- The coming bytes of `RandByte()`, the next one first; when none is left the byte is the free value
  `Config.freeByte` (R171; log 8). -/
  randomBytes : List Byte
  /-- How many free values have been taken. -/
  freeCount : Nat
  /-- The requests made so far, the oldest first (log 10). -/
  trace : List BoundaryEvent
  deriving DecidableEq, Repr

/-- The state of the machine. -/
@[ext]
structure State where
  /-- V0 to VF (10_state.md R11). -/
  v : Vector Byte 16
  /-- The index register I (R13). -/
  i : Word
  /-- The program counter PC (R14). -/
  pc : Word
  /-- STACK, the oldest entry first (R16: Call appends, Return removes the last). -/
  stack : List Word
  /-- The delay timer DT (R17). -/
  dt : Byte
  /-- The sound timer ST (R18). -/
  st : Byte
  /-- The keyboard flags K (R19). -/
  keys : Vector Bool 16
  /-- The framebuffer FB (R20). -/
  fb : FrameBuffer
  /-- MEM (R21). -/
  mem : Memory
  /-- HALT (R23). -/
  halt : Halt
  /-- Steps left in the current batch (60_exceptions.md R166): at 0 the next transition is a tick (log 9). -/
  batchLeft : Nat
  /-- The configuration (00_scope.md R6, R7), constant for the run. -/
  cfg : Config
  /-- The outside of the core. -/
  env : Env
  deriving DecidableEq, Repr

/-- An outside world that has been asked nothing and has fixed nothing (log 6, 7, 8). -/
def Env.fresh : Env where
  keyReplies := []
  replies := []
  randomBytes := []
  freeCount := 0
  trace := []

/-- The values after construction (10_state.md R26) with no program byte loaded; the first transition is a tick
(60_exceptions.md R166, 70_reset_and_hazards.md R180). -/
def State.initial (cfg : Config) (env : Env) : State where
  v := Vector.replicate 16 0
  i := 0
  pc := 0x200
  stack := []
  dt := 0
  st := 0
  keys := Vector.replicate 16 false
  fb := List.replicate cfg.height (List.replicate cfg.width false)
  mem := []
  halt := .running
  batchLeft := 0
  cfg := cfg
  env := env

/-- The machine right after construction with an empty program image (R26, R180, R183) and the customary
configuration (log 1 to 5). -/
def State.reset : State := State.initial Config.customary Env.fresh

end Sys2Proof.Machine
end

