-- ==== Sys2Proof/Machine/Memory.lean ====
section
/-! DEFINITION. Memory as a canonical list of cells (20_memory.md R40, R41, R51): what an unlisted address reads as,
reading and writing one byte, and the canonical form. -/

namespace Sys2Proof.Machine

/-- R5 MEM_SIZE. -/
def memSize : Nat := 4096

/-- What an address that nothing has written reads as: the contents after construction with an empty image
(10_state.md R26, 20_memory.md R41), FONT at 0 to 79 and 0 everywhere else. -/
def unlistedByte (font : Vector Byte 80) (a : Nat) : Byte := if h : a < 80 then font[a] else 0

/-- The listed byte at an address, if any. -/
def Memory.find (a : Nat) : Memory → Option Byte
  | [] => none
  | (b, w) :: rest => if b = a then some w else Memory.find a rest

/-- The byte at an address (R47). -/
def Memory.read (font : Vector Byte 80) (m : Memory) (a : Nat) : Byte := (Memory.find a m).getD (unlistedByte font a)

/-- The list without the cell at an address. -/
def Memory.erase (a : Nat) (m : Memory) : Memory := m.filter (fun c => c.1 != a)

/-- The list with a cell put before the first higher address. -/
def Memory.insert (a : Nat) (w : Byte) : Memory → Memory
  | [] => [(a, w)]
  | c :: rest => if a < c.1 then (a, w) :: c :: rest else c :: Memory.insert a w rest

/-- Writing one byte (R48), keeping the canonical form: writing what an unlisted address reads as removes the cell. -/
def Memory.write (font : Vector Byte 80) (a : Nat) (w : Byte) (m : Memory) : Memory :=
  if w = unlistedByte font a then Memory.erase a m else Memory.insert a w (Memory.erase a m)

/-- Addresses rise strictly. -/
def Memory.sorted : Memory → Bool
  | [] => true
  | [_] => true
  | c :: d :: rest => decide (c.1 < d.1) && Memory.sorted (d :: rest)

/-- The canonical form: addresses rise strictly, each exists (R40), and no cell holds what its address reads as
unlisted. -/
def Memory.wf (font : Vector Byte 80) (m : Memory) : Bool :=
  Memory.sorted m && m.all (fun c => decide (c.1 < memSize) && c.2 != unlistedByte font c.1)

/-- Writing bytes at ascending addresses, the first at `a` (20_memory.md R57, 42_index_and_memory.md R126). -/
def Memory.writeList (font : Vector Byte 80) (a : Nat) : List Byte → Memory → Memory
  | [], m => m
  | b :: bs, m => Memory.writeList font (a + 1) bs (Memory.write font a b m)

end Sys2Proof.Machine
end

