-- ==== Sys2Proof/Machine/Ops.lean ====
section
/-! DEFINITION. The named operations on registers, memory, the stack, the keys and the boundary, and raising a fault
(00_scope.md R9). Every meaning is written over them. -/

namespace Sys2Proof.Machine

/-- The outcome of a meaning and of a step. -/
abbrev Result := Host.Outcome State Fault Refusal

/-- `raise F(info)` (60_exceptions.md R150, R158): HALT is written and nothing else; there is no vector, no saved state,
and no way back (R159), so no operation returns from a fault. -/
def State.raise (s : State) (f : Fault) : State := { s with halt := .halted f }

/-- `V[x]` (10_state.md R11). -/
def State.getV (s : State) (x : Nibble) : Byte := s.v[x.toNat]'(x.isLt)

/-- `V[x] <- b` (R11); VF is an ordinary register here (R12). -/
def State.setV (s : State) (x : Nibble) (b : Byte) : State := { s with v := s.v.set x.toNat b x.isLt }

/-- `I <- w` (R13). -/
def State.setI (s : State) (w : Word) : State := { s with i := w }

/-- `PC <- w` (R14). -/
def State.setPc (s : State) (w : Word) : State := { s with pc := w }

/-- The advance by 2 that a fetch makes, and a skip makes once more (R14, 40_fetch_execute_and_control_flow.md R81). -/
def State.advancePc (s : State) : State := s.setPc (s.pc + 2)

/-- `push(v)` (10_state.md R16): append an entry. -/
def State.push (s : State) (w : Word) : State := { s with stack := s.stack ++ [w] }

/-- What `pop()` leaves (R16): the stack without its last entry. -/
def State.dropTop (s : State) : State := { s with stack := s.stack.dropLast }

/-- `DT <- b` (R17). -/
def State.setDt (s : State) (b : Byte) : State := { s with dt := b }

/-- `ST <- b` (R18). -/
def State.setSt (s : State) (b : Byte) : State := { s with st := b }

/-- `K[k] <- b` (R19). -/
def State.setKey (s : State) (k : Fin 16) (b : Bool) : State := { s with keys := s.keys.set k.val b k.isLt }

/-- `FB <- g` (R20). -/
def State.setFb (s : State) (g : FrameBuffer) : State := { s with fb := g }

/-- The byte at an address of MEM (20_memory.md R47); every user checks the range first (R46). -/
def State.byteAt (s : State) (a : Nat) : Byte := Memory.read s.cfg.font s.mem a

/-- `MemRead(addr, 1)` for `n` addresses ascending from `a` (R47, 42_index_and_memory.md R126). -/
def State.bytesFrom (s : State) (a n : Nat) : List Byte := (List.range n).map (fun j => s.byteAt (a + j))

/-- `MemWrite(addr, 1, v)` at addresses ascending from `a` (20_memory.md R48); every user checks the range first. -/
def State.putBytes (s : State) (a : Nat) (bs : List Byte) : State :=
  { s with mem := Memory.writeList s.cfg.font a bs s.mem }

/-- `MemRead(PC, 2)`, the fetch (R43, R46, R47): the high byte first, at any parity (R45). -/
def State.fetchWord (s : State) : Except Fault Word :=
  if s.pc.toNat + 1 ≤ 4095 then .ok (wordOfBytes (s.byteAt s.pc.toNat) (s.byteAt (s.pc.toNat + 1)))
  else .error (.addressFault .fetch s.pc.toNat)

/-- The answer the boundary gives to the next call (60_exceptions.md R152): the given one, else a free value. -/
def State.nextReply (s : State) : BoundaryReply := s.env.replies.headD (Config.freeReply s.env.freeCount)

/-- The count of free values taken, after an answer was taken of those `given`: one more where none was left. -/
def freeAfter {α : Type} (given : List α) (count : Nat) : Nat := if given.isEmpty then count + 1 else count

/-- The outside world after the boundary was asked `e`. -/
def Env.afterCall (env : Env) (e : BoundaryEvent) : Env :=
  { env with
    replies := env.replies.tail
    freeCount := freeAfter env.replies env.freeCount
    trace := env.trace ++ [e] }

/-- A boundary call with its request (R152, R167): on error the fault is raised, and the writes made before it
stand. -/
def State.callBoundary (s : State) (call : BoundaryCall) (e : BoundaryEvent) : State :=
  { s with
    env := s.env.afterCall e
    halt := match s.nextReply with
      | .ok => s.halt
      | .error => (s.raise (.ioError call)).halt }

/-- The byte the next `RandByte()` returns (R171): the given one, else a free value. -/
def State.nextRandom (s : State) : Byte := s.env.randomBytes.headD (Config.freeByte s.env.freeCount)

/-- The outside world after a `RandByte()`. -/
def Env.afterRandom (env : Env) : Env :=
  { env with
    randomBytes := env.randomBytes.tail
    freeCount := freeAfter env.randomBytes env.freeCount }

/-- What a `RandByte()` leaves of the state: the byte is used up. -/
def State.takeRandom (s : State) : State := { s with env := s.env.afterRandom }

end Sys2Proof.Machine
end

