-- ==== Sys2Proof/Machine/Operands.lean ====
section
/-! DEFINITION. The operand forms (30_encoding.md R63, R69; 42_index_and_memory.md R126): the immediate address, the
range at `I`, the sources that `legacy` selects, the register range, the key index and the origin of a Draw. -/

namespace Sys2Proof.Machine

/-- R63: `nnn` zero-extended to 16 bits. -/
def zext16 (nnn : Addr12) : Word := nnn.setWidth 16

/-- 20_memory.md R46: the bytes `start .. start + len - 1` exist; an empty range is not checked. The sum is exact. -/
def rangeInMemory (start len : Nat) : Bool := len == 0 || decide (start + len - 1 ≤ 4095)

/-- An instruction that touches `len` bytes at `I` (R46, R153): the whole range is checked before anything changes. -/
def State.withRange (s : State) (kind : AccessKind) (len : Nat) (after : State) : Result :=
  if rangeInMemory s.i.toNat len then .next after else .next (s.raise (.addressFault kind s.i.toNat))

/-- The source register value of a shift (41_load_and_alu.md R109, R111): Vy when `legacy`, else Vx. -/
def State.shiftSource (s : State) (x y : Nibble) : Byte := if s.cfg.legacy then s.getV y else s.getV x

/-- The register JumpOffset adds (40_fetch_execute_and_control_flow.md R90): `x` when `legacy`, else 0. -/
def State.offsetRegister (s : State) (x : Nibble) : Nibble := if s.cfg.legacy then x else 0

/-- V0 to Vx, inclusive (42_index_and_memory.md R124). -/
def State.registersTo (s : State) (x : Nibble) : List Byte := s.v.toList.take (x.toNat + 1)

/-- V0 to Vx loaded from memory ascending from `I` (R125); the registers above keep their values. -/
def State.loadRegistersTo (s : State) (x : Nibble) : State :=
  { s with v := Vector.ofFn (fun r : Fin 16 => if r.val ≤ x.toNat then s.byteAt (s.i.toNat + r.val) else s.v[r.val]) }

/-- A register value as a key index (44_keys_and_timers.md R140): none above 15; it is not masked. -/
def keyIndex (b : Byte) : Option (Fin 16) := if h : b.toNat < 16 then some ⟨b.toNat, h⟩ else none

/-- The lowest-numbered set keyboard flag (R142). -/
def leastSetKey (keys : Vector Bool 16) : Option (Fin 16) := (List.finRange 16).find? (fun k => keys[k.val])

/-- The row of a Draw's origin (43_display.md R131): `V[y] mod HEIGHT`. -/
def State.originRow (s : State) (y : Nibble) : Nat := (s.getV y).toNat % s.cfg.height

/-- The column of a Draw's origin (R131): `V[x] mod WIDTH`. -/
def State.originCol (s : State) (x : Nibble) : Nat := (s.getV x).toNat % s.cfg.width

/-- The decimal digits of a byte, ones first (42_index_and_memory.md R123). -/
def bcdDigits (v : Byte) : List Byte :=
  [BitVec.ofNat 8 (v.toNat % 10), BitVec.ofNat 8 (v.toNat / 10 % 10), BitVec.ofNat 8 (v.toNat / 100)]

/-- A skip when `c` holds (40_fetch_execute_and_control_flow.md R81, R89): PC moves past one more word, unread. -/
def State.skipIf (s : State) (c : Bool) : State := s.setPc (if c then s.pc + 2 else s.pc)

end Sys2Proof.Machine
end

