-- ==== Sys2Proof/Machine/ControlFlow.lean ====
section
/-! DEFINITION. The meanings of 40_fetch_execute_and_control_flow.md. In every meaning `PC` is already the address after
the instruction (R81). -/

namespace Sys2Proof.Machine

/-- R82: pop into PC, or StackUnderflow. -/
def execReturn (s : State) : Result :=
  match s.stack.getLast? with
  | none => .next (s.raise .stackUnderflow)
  | some target => .next (s.dropTop.setPc target)

/-- R83. -/
def execJump (nnn : Addr12) (s : State) : Result := .next (s.setPc (zext16 nnn))

/-- R84: the pushed value is the address after the Call. -/
def execCall (nnn : Addr12) (s : State) : Result := .next ((s.push s.pc).setPc (zext16 nnn))

/-- R85. -/
def execSkipEqImm (x : Nibble) (nn : Byte) (s : State) : Result := .next (s.skipIf (s.getV x == nn))

/-- R86. -/
def execSkipNeqImm (x : Nibble) (nn : Byte) (s : State) : Result := .next (s.skipIf (s.getV x != nn))

/-- R87. -/
def execSkipEqReg (x y : Nibble) (s : State) : Result := .next (s.skipIf (s.getV x == s.getV y))

/-- R88. -/
def execSkipNeqReg (x y : Nibble) (s : State) : Result := .next (s.skipIf (s.getV x != s.getV y))

/-- R90: `nnn` plus the selected register; the sum fits in 16 bits. -/
def execJumpOffset (nnn : Addr12) (x : Nibble) (s : State) : Result :=
  .next (s.setPc (zext16 nnn + (s.getV (s.offsetRegister x)).setWidth 16))

end Sys2Proof.Machine
end

