-- ==== Sys2Proof/Machine/Flags.lean ====
section
/-! DEFINITION. The flag computations (10_state.md R12, 41_load_and_alu.md R100, R107 to R111): VF is the one flag. -/

namespace Sys2Proof.Machine

/-- A flag is written as exactly 0 or 1 (R12). -/
def flagByte (c : Bool) : Byte := if c then 1 else 0

/-- The number of VF (R12). -/
def vf : Nibble := 0xF

/-- AddReg's flag (R107): the 16-bit sum is above 255. -/
def addCarry (a b : Byte) : Bool := decide (a.toNat + b.toNat > 255)

/-- SubXY's and SubYX's flag (R108, R110): strictly greater, unsigned. -/
def strictlyGreater (a b : Byte) : Bool := decide (a.toNat > b.toNat)

/-- ShiftRight's flag (R109): bit 0 of the source, in both modes. -/
def shiftRightFlag (source : Byte) : Bool := source.getLsbD 0

/-- ShiftLeft's flag (R111): bit 7 of the source when `legacy`, else bit SHL_FLAG_BIT. -/
def shiftLeftFlag (cfg : Config) (source : Byte) : Bool :=
  source.getLsbD (if cfg.legacy then 7 else cfg.shlFlagBit.index)

/-- The write-back of a flag-writing instruction (R100): the result to `V[x]`, then the flag to VF, so that with
`x` = 0xF the flag is what stays. -/
def State.setResultAndFlag (s : State) (x : Nibble) (result : Byte) (flag : Bool) : State :=
  (s.setV x result).setV vf (flagByte flag)

end Sys2Proof.Machine
end

