-- ==== Sys2Proof/Machine/Raster.lean ====
section
/-! DEFINITION. Drawing a sprite on the framebuffer grid (43_display.md R131, R132). -/

namespace Sys2Proof.Machine

/-- `FB[r][c]`; a cell outside the grid reads as unlit and no rule reads one. -/
def FrameBuffer.get (g : FrameBuffer) (r c : Nat) : Bool := (g.getD r []).getD c false

/-- `FB[r][c] <- b`. -/
def FrameBuffer.set (g : FrameBuffer) (r c : Nat) (b : Bool) : FrameBuffer := List.set g r ((g.getD r []).set c b)

/-- The grid with every cell of a HEIGHT by WIDTH screen unlit (R130). -/
def FrameBuffer.blank (height width : Nat) : FrameBuffer := List.replicate height (List.replicate width false)

/-- The grid has HEIGHT rows of WIDTH cells (10_state.md R20). -/
def FrameBuffer.shaped (height width : Nat) (g : FrameBuffer) : Bool :=
  g.length == height && g.all (fun row => row.length == width)

/-- A grid with the collision flag gathered so far. -/
structure Canvas where
  fb : FrameBuffer
  collision : Bool
  deriving DecidableEq, Repr

/-- One set sprite bit at row `r`, column `c` (R131): clipped outside the screen, else the cell is inverted and a cell
that was set is a collision. -/
def Canvas.plot (height width r c : Nat) (d : Canvas) : Canvas :=
  if r < height ∧ c < width then
    { fb := d.fb.set r c (!d.fb.get r c), collision := d.collision || d.fb.get r c }
  else d

/-- The columns `j`, `j + 1`, ... of one sprite row, as many as listed (R132: bit 7 is the leftmost). -/
def Canvas.plotBits (height width r px : Nat) (b : Byte) : List Nat → Canvas → Canvas
  | [], d => d
  | j :: js, d =>
    Canvas.plotBits height width r px b js (if b.getLsbD (7 - j) then d.plot height width r (px + j) else d)

/-- The sprite rows (R132): the first at row `r`, the next below it. -/
def Canvas.plotRows (height width px : Nat) : Nat → List Byte → Canvas → Canvas
  | _, [], d => d
  | r, b :: bs, d =>
    Canvas.plotRows height width px (r + 1) bs (Canvas.plotBits height width r px b (List.range 8) d)

end Sys2Proof.Machine
end

