-- ==== Sys2Proof/Machine/Display.lean ====
section
/-! DEFINITION. The meanings of 43_display.md. -/

namespace Sys2Proof.Machine

/-- R130: every cell unlit; no boundary call. -/
def execClear (s : State) : Result := .next (s.setFb (FrameBuffer.blank s.cfg.height s.cfg.width))

/-- What a Draw makes of the grid and its collision flag (R131), coordinates latched and the sprite read at `I`. -/
def State.drawn (s : State) (x y n : Nibble) : Canvas :=
  Canvas.plotRows s.cfg.height s.cfg.width (s.originCol x) (s.originRow y) (s.bytesFrom s.i.toNat n.toNat) ⟨s.fb, false⟩

/-- `IoUpdateScreen(FB)` (R133): the whole grid, as it is now. -/
def State.updateScreen (s : State) : State := s.callBoundary .updateScreen (.updateScreen s.fb)

/-- R131: the grid, then VF, then the boundary call. -/
def execDraw (x y n : Nibble) (s : State) : Result :=
  s.withRange .read n.toNat
    (((s.setFb (s.drawn x y n).fb).setV vf (flagByte (s.drawn x y n).collision)).updateScreen)

end Sys2Proof.Machine
end

