-- ==== Sys2Proof/Machine/IndexMemory.lean ====
section
/-! DEFINITION. The meanings of 42_index_and_memory.md. -/

namespace Sys2Proof.Machine

/-- R120. -/
def execLoadIndex (nnn : Addr12) (s : State) : Result := .next (s.setI (zext16 nnn))

/-- R121: modulo 65536, no flag. -/
def execAddIndex (x : Nibble) (s : State) : Result := .next (s.setI (s.i + (s.getV x).setWidth 16))

/-- R122: the whole byte times 5. -/
def execLoadFontAddr (x : Nibble) (s : State) : Result := .next (s.setI (BitVec.ofNat 16 ((s.getV x).toNat * 5)))

/-- R123: ones, tens, hundreds at `I`, `I + 1`, `I + 2`. -/
def execStoreBCD (x : Nibble) (s : State) : Result :=
  s.withRange .write 3 (s.putBytes s.i.toNat (bcdDigits (s.getV x)))

/-- R124: V0 to Vx at `I` upward; `I` stays. -/
def execStoreRegisters (x : Nibble) (s : State) : Result :=
  s.withRange .write (x.toNat + 1) (s.putBytes s.i.toNat (s.registersTo x))

/-- R125: V0 to Vx from `I` upward; `I` stays. -/
def execLoadRegisters (x : Nibble) (s : State) : Result :=
  s.withRange .read (x.toNat + 1) (s.loadRegistersTo x)

end Sys2Proof.Machine
end

