-- ==== Sys2Proof/Machine/KeysTimers.lean ====
section
/-! DEFINITION. The meanings of 44_keys_and_timers.md. -/

namespace Sys2Proof.Machine

/-- R140: a set flag is cleared and the next instruction skipped; a clear one changes nothing. -/
def execSkipKeyDown (x : Nibble) (s : State) : Result :=
  match keyIndex (s.getV x) with
  | none => .next (s.raise (.keyIndexFault (s.getV x)))
  | some k => .next (if s.keys[k.val] then (s.setKey k false).skipIf true else s)

/-- R141: skip when the flag is clear; the flag is cleared in all cases. -/
def execSkipKeyUp (x : Nibble) (s : State) : Result :=
  match keyIndex (s.getV x) with
  | none => .next (s.raise (.keyIndexFault (s.getV x)))
  | some k => .next ((s.skipIf (!s.keys[k.val])).setKey k false)

/-- R142: the lowest set key is taken and cleared; with none set, PC goes back to this instruction. -/
def execWaitKey (x : Nibble) (s : State) : Result :=
  match leastSetKey s.keys with
  | some k => .next ((s.setKey k false).setV x (BitVec.ofNat 8 k.val))
  | none => .next (s.setPc (s.pc - 2))

/-- R143. -/
def execGetDelay (x : Nibble) (s : State) : Result := .next (s.setV x s.dt)

/-- R144. -/
def execSetDelay (x : Nibble) (s : State) : Result := .next (s.setDt (s.getV x))

/-- R145: `start_beep` on a rising edge of ST, after ST is written. -/
def execSetSound (x : Nibble) (s : State) : Result :=
  if s.st = 0 ∧ s.getV x ≠ 0 then .next ((s.setSt (s.getV x)).callBoundary .startBeep .startBeep)
  else .next (s.setSt (s.getV x))

end Sys2Proof.Machine
end

