-- ==== Sys2Proof/Machine/LoadAlu.lean ====
section
/-! DEFINITION. The meanings of 41_load_and_alu.md: operands latched, then the result, then the flag (R100). -/

namespace Sys2Proof.Machine

/-- R101. -/
def execLoadImm (x : Nibble) (nn : Byte) (s : State) : Result := .next (s.setV x nn)

/-- R102: wraps modulo 256, no flag. -/
def execAddImm (x : Nibble) (nn : Byte) (s : State) : Result := .next (s.setV x (s.getV x + nn))

/-- R103. -/
def execMove (x y : Nibble) (s : State) : Result := .next (s.setV x (s.getV y))

/-- R104. -/
def execOr (x y : Nibble) (s : State) : Result := .next (s.setV x (s.getV x ||| s.getV y))

/-- R105. -/
def execAnd (x y : Nibble) (s : State) : Result := .next (s.setV x (s.getV x &&& s.getV y))

/-- R106. -/
def execXor (x y : Nibble) (s : State) : Result := .next (s.setV x (s.getV x ^^^ s.getV y))

/-- R107. -/
def execAddReg (x y : Nibble) (s : State) : Result :=
  .next (s.setResultAndFlag x (s.getV x + s.getV y) (addCarry (s.getV x) (s.getV y)))

/-- R108. -/
def execSubXY (x y : Nibble) (s : State) : Result :=
  .next (s.setResultAndFlag x (s.getV x - s.getV y) (strictlyGreater (s.getV x) (s.getV y)))

/-- R109: `s div 2` of the selected source. -/
def execShiftRight (x y : Nibble) (s : State) : Result :=
  .next (s.setResultAndFlag x (s.shiftSource x y >>> 1) (shiftRightFlag (s.shiftSource x y)))

/-- R110. -/
def execSubYX (x y : Nibble) (s : State) : Result :=
  .next (s.setResultAndFlag x (s.getV y - s.getV x) (strictlyGreater (s.getV y) (s.getV x)))

/-- R111: `(s * 2) mod 256` of the selected source. -/
def execShiftLeft (x y : Nibble) (s : State) : Result :=
  .next (s.setResultAndFlag x (s.shiftSource x y <<< 1) (shiftLeftFlag s.cfg (s.shiftSource x y)))

/-- R112: a random byte and the mask. -/
def execRandom (x : Nibble) (nn : Byte) (s : State) : Result := .next (s.takeRandom.setV x (s.nextRandom &&& nn))

end Sys2Proof.Machine
end

