-- ==== Sys2Proof/Machine/RunLoop.lean ====
section
/-! DEFINITION. The transitions of the machine and their order: the timer tick and the key poll
(60_exceptions.md R162, R165), the instruction step (40_fetch_execute_and_control_flow.md R80), and one turn of the run
loop (R166). -/

namespace Sys2Proof.Machine

/-- The timers' part of a tick of a running machine (R162): each is decremented when nonzero, and ST reaching 0 asks
the boundary to end the beep. -/
def State.tickTimers (s : State) : State :=
  let t := if s.dt = 0 then s else s.setDt (s.dt - 1)
  if t.st = 0 then t
  else if t.st - 1 = 0 then (t.setSt (t.st - 1)).callBoundary .endBeep .endBeep
  else t.setSt (t.st - 1)

/-- `tick()` (R162); a halted machine has none (R150). -/
def State.tick (s : State) : State := if s.halt = .running then s.tickTimers else s

/-- The answer of the next `get_key` (R165, R168): the given one, else a free value. -/
def State.nextKeyReply (s : State) : KeyReply := s.env.keyReplies.headD (Config.freeKeyReply s.env.freeCount)

/-- The outside world after a `get_key`. -/
def Env.afterKeyReply (env : Env) : Env :=
  { env with
    keyReplies := env.keyReplies.tail
    freeCount := freeAfter env.keyReplies env.freeCount }

/-- What a `get_key` call leaves of the state: its answer is used up. -/
def State.takeKeyReply (s : State) : State := { s with env := s.env.afterKeyReply }

/-- `key_poll()` (R165); a halted machine has none (R150). -/
def State.keyPoll (s : State) : State :=
  if s.halt = .running then
    match s.nextKeyReply with
    | .noEvent => s.takeKeyReply
    | .event k pressed => s.takeKeyReply.setKey k pressed
    | .error => s.takeKeyReply.raise (.ioError .getKey)
  else s

/-- A tick where the schedule has one, between two batches (R166): a new batch of `opcodes_per_cycle` steps begins. -/
def State.tickIfDue (s : State) : State :=
  if s.batchLeft = 0 then { s.tick with batchLeft := s.cfg.opcodesPerCycle } else s

/-- One of the batch's slots is used by a step (R166). -/
def State.takeSlot (s : State) : State := { s with batchLeft := s.batchLeft - 1 }

/-- `step()` (40 R80): fetch, advance, decode, execute; the fetch's bound comes before decoding (60 R156). -/
def instructionStep (s : State) : Result :=
  match s.fetchWord with
  | .error f => .next (s.raise f)
  | .ok w =>
    match decode w with
    | .error _ => .next (s.advancePc.raise (.decodeError w))
    | .ok i => exec i s.advancePc

/-- Go on with a transition unless the one before it has halted the machine (R150, R166). -/
def State.thenIfRunning (s : State) (next : State → Result) : Result :=
  match s.halt with
  | .running => next s
  | .halted _ => .next s

/-- One turn of the run loop (R166): a tick where one is due, a key poll, an instruction step; a machine that a fault
has halted has no transition and answers its fault (R150). -/
def loopTurn (s : State) : Result :=
  match s.halt with
  | .halted f => .fault f
  | .running => s.tickIfDue.thenIfRunning (fun t => t.keyPoll.thenIfRunning (fun u => instructionStep u.takeSlot))

/-- The state with an instruction's bytes stored where the next fetch reads them (20_memory.md R43), as far as those
addresses exist. -/
def State.placeAtPc (s : State) (bytes : List Byte) : State :=
  if s.pc.toNat + bytes.length ≤ memSize then s.putBytes s.pc.toNat bytes else s

/-- The outside world with a next `get_key` that does not fail: where its answer is free or an error, it is that no event
is waiting. -/
def Env.quietPoll (env : Env) : Env :=
  { env with
    keyReplies := match env.keyReplies with
      | [] => [.noEvent]
      | .error :: rest => .noEvent :: rest
      | .noEvent :: rest => .noEvent :: rest
      | .event k pressed :: rest => .event k pressed :: rest }

/-- The state whose next step fetches the given bytes: they stand at PC, and the key poll before the fetch, whose free
answer may be an error that halts the machine (R152, R165), is given one that is not (log 15). -/
def State.placeNext (s : State) (bytes : List Byte) : State :=
  { s.placeAtPc bytes with env := s.env.quietPoll }

end Sys2Proof.Machine
end

