-- ==== Sys2Proof/Machine/Step.lean ====
section
/-! DEFINITION. The step of the model: one turn of the run loop (60_exceptions.md R166). -/

namespace Sys2Proof.Machine

/-- One turn of the run loop: a tick where one is due, a key poll, one instruction. -/
def step (s : State) : Host.Outcome State Fault Refusal := loopTurn s

/-- The state with the instruction of an opcode-table word stored where the next step fetches, and a key poll before that
fetch that does not fail (log 15). -/
def State.withFetchWord (s : State) (nbits w : Nat) : State := s.placeNext (tableBytes nbits w)

end Sys2Proof.Machine
end

