-- ==== Sys2Proof/Machine/Construct.lean ====
section
/-! DEFINITION. Construction, the machine's one reset (70_reset_and_hazards.md R180 to R184). -/

namespace Sys2Proof.Machine

/-- What construction asks of a configuration (R183, R184; 00_scope.md R6, R7); FONT has its 80 bytes by type. -/
def validConfig (cfg : Config) : Bool :=
  decide (1 ≤ cfg.opcodesPerCycle ∧ 1 ≤ cfg.timerHz ∧ 8 ≤ cfg.width ∧ 1 ≤ cfg.height)

/-- R183: the longest image that fits above 0x200. -/
def maxImage : Nat := 3584

/-- Construction (R180): refused for an invalid configuration or an image that does not fit, else the values of
10_state.md R26 with the image's byte j at 0x200 + j (20_memory.md R57). -/
def construct (cfg : Config) (env : Env) (image : List Byte) : Except Refusal State :=
  if ¬ validConfig cfg then .error .invalidConfiguration
  else if image.length > maxImage then .error (.imageTooLong image.length)
  else .ok ((State.initial cfg env).putBytes 0x200 image)

end Sys2Proof.Machine
end

