-- ==== Sys2Proof/Safety.lean ====
section
/-! DEFINITION. The terms claims use: the invariant of a machine that construction made, which instruction a step runs,
and which instructions may write which register (10_state.md R11, R12). -/

namespace Sys2Proof.Machine

/-- The largest value PC ever holds (10_state.md R15): the largest JumpOffset target. -/
def maxPc : Nat := 0x10FE

/-- What construction establishes and every step keeps: a valid configuration (70_reset_and_hazards.md R183, R184),
canonical memory, a grid of HEIGHT by WIDTH (10_state.md R20), PC and saved values within the bounds of R15 and
40_fetch_execute_and_control_flow.md R82, and a batch no longer than `opcodes_per_cycle` (60_exceptions.md R166). -/
def State.sound (s : State) : Bool :=
  validConfig s.cfg && Memory.wf s.cfg.font s.mem && FrameBuffer.shaped s.cfg.height s.cfg.width s.fb &&
    decide (s.pc.toNat ≤ maxPc) && s.stack.all (fun w => decide (w.toNat ≤ memSize)) &&
    decide (s.batchLeft ≤ s.cfg.opcodesPerCycle)

/-- The state the next instruction is fetched in: after the tick, where one is due, and the key poll (R166). -/
def State.atFetch (s : State) : State := s.tickIfDue.keyPoll.takeSlot

/-- The machine runs, and neither the tick nor the key poll before the next instruction halts it. -/
def State.reachesFetch (s : State) : Prop :=
  s.halt = .running ∧ s.tickIfDue.halt = .running ∧ s.tickIfDue.keyPoll.halt = .running

/-- The next step runs the instruction `i`: the two bytes at PC decode to it. -/
def State.runs (s : State) (i : Instr) : Prop :=
  s.reachesFetch ∧ s.pc.toNat ≤ 4094 ∧
    decode (wordOfBytes (s.byteAt s.pc.toNat) (s.byteAt (s.pc.toNat + 1))) = .ok i

/-- The flag-writing instructions of R12. -/
def writesFlag : Instr → Bool
  | .addReg _ _ | .subXY _ _ | .subYX _ _ | .shiftRight _ _ | .shiftLeft _ _ | .draw _ _ _ => true
  | .clear | .ret | .jump _ | .call _ | .skipEqImm _ _ | .skipNeqImm _ _ | .skipEqReg _ _ | .loadImm _ _
  | .addImm _ _ | .move _ _ | .or _ _ | .and _ _ | .xor _ _ | .skipNeqReg _ _ | .loadIndex _ | .jumpOffset _ _
  | .random _ _ | .skipKeyDown _ | .skipKeyUp _ | .getDelay _ | .waitKey _ | .setDelay _ | .setSound _
  | .addIndex _ | .loadFontAddr _ | .storeBCD _ | .storeRegisters _ | .loadRegisters _ => false

/-- The rows "writes Vx" and "writes VF" of R11's table: whether an instruction may write register `r`. -/
def mayWriteV (r : Nibble) : Instr → Bool
  | .loadImm x _ | .addImm x _ | .move x _ | .or x _ | .and x _ | .xor x _ | .random x _ | .getDelay x
  | .waitKey x => r == x
  | .addReg x _ | .subXY x _ | .subYX x _ | .shiftRight x _ | .shiftLeft x _ => r == x || r == vf
  | .draw _ _ _ => r == vf
  | .loadRegisters x => decide (r.toNat ≤ x.toNat)
  | .clear | .ret | .jump _ | .call _ | .skipEqImm _ _ | .skipNeqImm _ _ | .skipEqReg _ _ | .skipNeqReg _ _
  | .loadIndex _ | .jumpOffset _ _ | .skipKeyDown _ | .skipKeyUp _ | .setDelay _ | .setSound _ | .addIndex _
  | .loadFontAddr _ | .storeBCD _ | .storeRegisters _ => false

/-- The instructions that move PC beyond the fetch's advance (10_state.md R14). -/
def movesPc : Instr → Bool
  | .ret | .jump _ | .call _ | .skipEqImm _ _ | .skipNeqImm _ _ | .skipEqReg _ _ | .skipNeqReg _ _ | .jumpOffset _ _
  | .skipKeyDown _ | .skipKeyUp _ | .waitKey _ => true
  | .clear | .loadImm _ _ | .addImm _ _ | .move _ _ | .or _ _ | .and _ _ | .xor _ _ | .addReg _ _ | .subXY _ _
  | .shiftRight _ _ | .subYX _ _ | .shiftLeft _ _ | .loadIndex _ | .random _ _ | .draw _ _ _ | .getDelay _
  | .setDelay _ | .setSound _ | .addIndex _ | .loadFontAddr _ | .storeBCD _ | .storeRegisters _
  | .loadRegisters _ => false

/-- `t` is `s` but for the registers, of which each `r` holds `f r`: every other field and every byte of memory is as
before. -/
def State.registersBecome (s t : State) (f : Nibble → Byte) : Prop :=
  (∀ r, t.getV r = f r) ∧ { t with v := s.v } = s ∧ ∀ a, t.byteAt a = s.byteAt a

/-- The framebuffer cell (`r`, `c`) lies under a set bit of the sprite that `Draw x y n` draws (43_display.md R131,
R132): row `r` of the screen takes the byte at `I + (r - py)`, and column `c` its bit `7 - (c - px)`. -/
def State.spriteBit (s : State) (x y n : Nibble) (r c : Nat) : Bool :=
  decide (s.originRow y ≤ r ∧ r < s.originRow y + n.toNat ∧ s.originCol x ≤ c ∧ c < s.originCol x + 8) &&
    (s.byteAt (s.i.toNat + (r - s.originRow y))).getLsbD (7 - (c - s.originCol x))

end Sys2Proof.Machine
end

