-- ==== Sys2Proof/Certificates/Slice0/Obligations.lean ====
section
/-! DEFINITION. The statements about the model, from the spec's numbered rules. "The spec's decision Dn" names a row of
92_eei_decisions.md, a choice the spec marks as its own; "log n" is notes/assumptions/n.md. In every statement about
`exec`, PC is already past the instruction (40_fetch_execute_and_control_flow.md R81). -/

open Sys2Proof Sys2Proof.Machine

/-! ## Encoding -/

/-- 30_encoding.md R61 to R65, R69: no operand bit is lost between the encoder and the decoder. -/
def Obligations.DecodeInvertsEncode : Prop :=
  ∀ i : Instr, i.wellFormed = true → decode (encode i) = .ok i

/-- 30_encoding.md R64, R69: a word that decodes is the word of what it decodes to, which is well formed. -/
def Obligations.EncodeInvertsDecode : Prop :=
  ∀ (w : Word) (i : Instr), decode w = .ok i → i.wellFormed = true ∧ encode i = w

/-- R64: the decoder is total, and takes the one row of the opcode map that matches, with the operands the word holds,
or fails with the word, which a step that fetches it turns into DecodeError. -/
def Obligations.DecodePicksTheOneMatchingRow : Prop :=
  ∀ w : Word,
    (∃ i, decode w = .ok i ∧ i.wellFormed = true ∧ encode i = w ∧ i.row ∈ opcodeTable ∧
      ∀ row ∈ opcodeTable, w &&& row.mask = row.bits ↔ row = i.row) ∨
    (decode w = .error (.illegalWord w) ∧ (∀ row ∈ opcodeTable, w &&& row.mask ≠ row.bits) ∧
      ∀ s : State, s.fetchWord = .ok w →
        instructionStep s = .next { s with pc := s.pc + 2, halt := .halted (.decodeError w) })

/-- Words of 95_test_vectors.md section 2.1 and what they decode to. -/
def Obligations.SpecWordsDecode : Prop :=
  decode 0x00E0 = .ok .clear ∧ decode 0x01E0 = .error (.illegalWord 0x01E0) ∧ decode 0x2ABC = .ok (.call 0xABC) ∧
    decode 0x3A42 = .ok (.skipEqImm 0xA 0x42) ∧ decode 0x8AB7 = .ok (.subYX 0xA 0xB) ∧
    decode 0x8AB8 = .error (.illegalWord 0x8AB8) ∧ decode 0xB345 = .ok (.jumpOffset 0x345 0x3) ∧
    decode 0xD120 = .ok (.draw 1 2 0) ∧ decode 0xE1A1 = .ok (.skipKeyUp 1) ∧ decode 0xF00A = .ok (.waitKey 0) ∧
    decode 0xFF65 = .ok (.loadRegisters 0xF) ∧ decode 0xF075 = .error (.illegalWord 0xF075)

/-! ## The step, the tick, the key poll and their schedule -/

/-- R80: the fetch's bound (the spec's decision D3), the big-endian word of R43 (its decision D2, log 19), the advance
before decoding, the decode failure, the handler. A halted machine has no step; that the model's step answers its fault
there is the model's choice (log 11). -/
def Obligations.InstructionStepFollowsTheFetchRule : Prop :=
  ∀ s : State,
    (∀ f, s.halt = .halted f → step s = .fault f) ∧
    (s.pc.toNat + 1 > 4095 →
      instructionStep s = .next { s with halt := .halted (.addressFault .fetch s.pc.toNat) }) ∧
    (s.pc.toNat + 1 ≤ 4095 → ∀ w : Word,
      w.toNat = (s.byteAt s.pc.toNat).toNat * 256 + (s.byteAt (s.pc.toNat + 1)).toNat →
        (∀ i, decode w = .ok i → instructionStep s = exec i { s with pc := s.pc + 2 }) ∧
        (∀ e, decode w = .error e →
          instructionStep s = .next { s with pc := s.pc + 2, halt := .halted (.decodeError w) }))

/-- A step runs the decoded instruction: the tick where one is due and one key poll come before it, one slot of the
batch is used, and PC moves past the word (40 R80, 60 R166); a tick or a key poll that halts the machine ends the step
there, and no instruction runs (60 R150, R166). The word is read high byte first (the spec's decision D2, log 19); that
one model step is one turn of the run loop is the model's choice (log 9). -/
def Obligations.StepRunsTheDecodedInstruction : Prop :=
  ∀ s : State, s.halt = .running →
    (s.tickIfDue.halt ≠ .running → step s = .next s.tickIfDue) ∧
    (s.tickIfDue.halt = .running → s.tickIfDue.keyPoll.halt ≠ .running → step s = .next s.tickIfDue.keyPoll) ∧
    ∀ i : Instr, s.runs i → step s = exec i
      { s.tickIfDue.keyPoll with pc := s.pc + 2, batchLeft := s.tickIfDue.keyPoll.batchLeft - 1 }

/-- R151: exactly the words that match no row raise DecodeError, with PC advanced and nothing else changed. -/
def Obligations.IllegalWordRaisesDecodeError : Prop :=
  ∀ (s : State) (w : Word), s.halt = .running → s.pc.toNat ≤ 4094 →
    w = wordOfBytes (s.byteAt s.pc.toNat) (s.byteAt (s.pc.toNat + 1)) →
    ((∀ row ∈ opcodeTable, w &&& row.mask ≠ row.bits) →
      instructionStep s = .next { s with pc := s.pc + 2, halt := .halted (.decodeError w) }) ∧
    ((∃ row ∈ opcodeTable, w &&& row.mask = row.bits) →
      ∃ t, instructionStep s = .next t ∧ ∀ u, t.halt ≠ .halted (.decodeError u))

/-- R150 and R23, the spec's decision D26: nothing ever changes again after a fault. That a fault is a next state with
HALT written, and the stop the step after it, is the model's choice (log 11). -/
def Obligations.HaltedMachineHasNoTransition : Prop :=
  ∀ (s : State) (f : Fault), s.halt = .halted f → s.tick = s ∧ s.keyPoll = s ∧ step s = .fault f

/-- R162: a tick decrements each nonzero timer, changes nothing else of the core, and asks for the end of the beep
exactly when ST goes from 1 to 0; the boundary's error halts the machine with the timers written. The boundary's
answers and the record of requests are the model's fields (log 6, 10). -/
def Obligations.TickDecrementsTimers : Prop :=
  ∀ s : State, s.halt = .running →
    s.tick.dt.toNat = s.dt.toNat - 1 ∧ s.tick.st.toNat = s.st.toNat - 1 ∧
    s.tick.env.trace = (if s.st = 1 then s.env.trace ++ [.endBeep] else s.env.trace) ∧
    s.tick.halt = (if s.st = 1 ∧ s.nextReply = .error then .halted (.ioError .endBeep) else .running) ∧
    s.tick.env.replies = (if s.st = 1 then s.env.replies.tail else s.env.replies) ∧
    s.tick.env.keyReplies = s.env.keyReplies ∧ s.tick.env.randomBytes = s.env.randomBytes ∧
    { s.tick with dt := s.dt, st := s.st, env := s.env, halt := s.halt } = s

/-- R165, with the spec's decision D34 on the key's range: one answer of `get_key` is taken, and it changes at most one
keyboard flag, or halts the machine. Where none of the given answers is left it is a free value (log 7). -/
def Obligations.KeyPollMergesOneEvent : Prop :=
  ∀ s : State, s.halt = .running →
    (s.nextKeyReply = .noEvent → s.keyPoll.keys = s.keys ∧ s.keyPoll.halt = .running) ∧
    (∀ k p, s.nextKeyReply = .event k p → s.keyPoll.halt = .running ∧
      ∀ j : Fin 16, s.keyPoll.keys[j.val] = if j = k then p else s.keys[j.val]) ∧
    (s.nextKeyReply = .error → s.keyPoll.keys = s.keys ∧ s.keyPoll.halt = .halted (.ioError .getKey)) ∧
    s.keyPoll.env.keyReplies = s.env.keyReplies.tail ∧ s.keyPoll.env.replies = s.env.replies ∧
    s.keyPoll.env.randomBytes = s.env.randomBytes ∧ s.keyPoll.env.trace = s.env.trace ∧
    { s.keyPoll with keys := s.keys, env := s.env, halt := s.halt } = s

/-- R166, the spec's decision D27: a new batch of `opcodes_per_cycle` begins, with a tick, exactly when no slot of the
batch is left, no tick comes otherwise, and a step that leaves the machine running has used one slot of its batch. The
position in the batch is the model's own field (log 9). -/
def Obligations.ScheduleOfTicksAndSteps : Prop :=
  ∀ s : State,
    (s.batchLeft = 0 → s.tickIfDue = { s.tick with batchLeft := s.cfg.opcodesPerCycle }) ∧
    (s.batchLeft ≠ 0 → s.tickIfDue = s) ∧
    ∀ t : State, step s = .next t → t.halt = .running →
      (s.batchLeft = 0 → t.batchLeft = s.cfg.opcodesPerCycle - 1) ∧ (s.batchLeft ≠ 0 → t.batchLeft = s.batchLeft - 1)

/-- R166 (D27): a batch's steps run one after another; over `n` of them, none of which begins a batch, `n` slots are
used (log 9). -/
def Obligations.BatchRunsItsSteps : Prop :=
  ∀ (n : Nat) (s t : State), n ≤ s.batchLeft → core.run n s = .next t → t.halt = .running →
    t.batchLeft = s.batchLeft - n

/-- R165, R166: exactly one key poll precedes every instruction step, a retry of WaitKey included. -/
def Obligations.EveryStepTakesOneKeyPoll : Prop :=
  ∀ s t : State, step s = .next t → s.tickIfDue.halt = .running → t.env.keyReplies = s.env.keyReplies.tail

/-- 70_reset_and_hazards.md R190: inside a batch a timer changes only by the instruction that writes it. -/
def Obligations.TimersChangeOnlyBetweenBatches : Prop :=
  ∀ s t : State, s.batchLeft ≠ 0 → step s = .next t →
    ((∀ x, ¬ s.runs (.setDelay x)) → t.dt = s.dt) ∧ ((∀ x, ¬ s.runs (.setSound x)) → t.st = s.st)

/-! ## Control flow -/

/-- R83, R84: any 12-bit target is taken; Call first appends the address after it, an inference R84 marks as its
own (and the spec's decision D13). -/
def Obligations.JumpAndCallReplacePc : Prop :=
  ∀ (nnn : Addr12) (s : State), ∃ target : Word, target.toNat = nnn.toNat ∧
    exec (.jump nnn) s = .next { s with pc := target } ∧
    exec (.call nnn) s = .next { s with pc := target, stack := s.stack ++ [s.pc] }

/-- R82, with the spec's decision D13: Return takes the last entry; on an empty stack it raises StackUnderflow (D4). -/
def Obligations.ReturnPopsTheLastEntry : Prop :=
  ∀ s : State,
    (∀ rest target, s.stack = rest ++ [target] → exec .ret s = .next { s with pc := target, stack := rest }) ∧
    (s.stack = [] → exec .ret s = .next { s with halt := .halted .stackUnderflow })

/-- R82, R84: a Return, whenever the stack is again as the Call left it, resumes after the Call. That a Call pushes the
address after it is an inference R84 marks as its own, and the handlers' meanings are the spec's decision D13
(log 19). -/
def Obligations.CallThenReturnResumes : Prop :=
  ∀ (nnn : Addr12) (s t u : State), exec (.call nnn) s = .next t → u.stack = t.stack →
    exec .ret u = .next { u with pc := s.pc, stack := s.stack }

/-- R85 to R88, with the spec's decision D13: the four skips, by unsigned equality; no register is written. -/
def Obligations.SkipsMovePcByTwo : Prop :=
  ∀ (x y : Nibble) (nn : Byte) (s : State),
    exec (.skipEqImm x nn) s = .next { s with pc := if s.getV x = nn then s.pc + 2 else s.pc } ∧
    exec (.skipNeqImm x nn) s = .next { s with pc := if s.getV x ≠ nn then s.pc + 2 else s.pc } ∧
    exec (.skipEqReg x y) s = .next { s with pc := if s.getV x = s.getV y then s.pc + 2 else s.pc } ∧
    exec (.skipNeqReg x y) s = .next { s with pc := if s.getV x ≠ s.getV y then s.pc + 2 else s.pc }

/-- R90: the exact sum of `nnn` and register x when `legacy`, else V0; that nothing is reduced is the spec's decision
D1. -/
def Obligations.JumpOffsetAddsTheSelectedRegister : Prop :=
  ∀ (nnn : Addr12) (x : Nibble) (s : State), ∃ target : Word,
    target.toNat = nnn.toNat + (if s.cfg.legacy then s.getV x else s.getV 0).toNat ∧
    exec (.jumpOffset nnn x) s = .next { s with pc := target }

/-! ## Load, logic and arithmetic -/

/-- R101, R103, with the spec's decision D13: the value is written to Vx, and nothing else is written. -/
def Obligations.LoadImmAndMoveWriteTheirDestination : Prop :=
  ∀ (x y : Nibble) (nn : Byte) (s : State),
    (∃ t, exec (.loadImm x nn) s = .next t ∧ s.registersBecome t (fun r => if r = x then nn else s.getV r)) ∧
    (∃ t, exec (.move x y) s = .next t ∧ s.registersBecome t (fun r => if r = x then s.getV y else s.getV r))

/-- R102: the sum modulo 256 (the spec's decision D13); that VF is left is its decision D12. -/
def Obligations.AddImmWrapsWithoutFlag : Prop :=
  ∀ (x : Nibble) (nn : Byte) (s : State), ∃ t, exec (.addImm x nn) s = .next t ∧
    s.registersBecome t
      (fun r => if r = x then BitVec.ofNat 8 (((s.getV x).toNat + nn.toNat) % 256) else s.getV r)

/-- R104 to R106, bit by bit (the spec's decision D13); that VF is left is its decision D12. -/
def Obligations.LogicWorksBitByBit : Prop :=
  ∀ (x y : Nibble) (s : State), ∃ tOr tAnd tXor,
    exec (.or x y) s = .next tOr ∧ exec (.and x y) s = .next tAnd ∧ exec (.xor x y) s = .next tXor ∧
    (∀ b, b < 8 → (tOr.getV x).getLsbD b = ((s.getV x).getLsbD b || (s.getV y).getLsbD b) ∧
      (tAnd.getV x).getLsbD b = ((s.getV x).getLsbD b && (s.getV y).getLsbD b) ∧
      (tXor.getV x).getLsbD b = ((s.getV x).getLsbD b ^^ (s.getV y).getLsbD b)) ∧
    ∀ t ∈ [tOr, tAnd, tXor], (∀ r, r ≠ x → t.getV r = s.getV r) ∧ { t with v := s.v } = s ∧
      ∀ a, t.byteAt a = s.byteAt a

/-- R107: the low 8 bits of the sum, and VF as the carry; that with x = F the flag is what stays is the spec's decision
D9 (log 13). -/
def Obligations.AddRegAddsAndFlagsTheCarry : Prop :=
  ∀ (x y : Nibble) (s : State), ∃ t, exec (.addReg x y) s = .next t ∧
    s.registersBecome t (fun r =>
      if r = 0xF then (if (s.getV x).toNat + (s.getV y).toNat > 255 then 1 else 0)
      else if r = x then BitVec.ofNat 8 (((s.getV x).toNat + (s.getV y).toNat) % 256) else s.getV r)

/-- R108, R110: the wrapped difference, and VF as strictly greater (equal operands give 0); that with x = F the flag is
what stays is the spec's decision D9 (log 13). -/
def Obligations.SubtractsAndFlagsStrictlyGreater : Prop :=
  ∀ (x y : Nibble) (s : State),
    (∃ t, exec (.subXY x y) s = .next t ∧ s.registersBecome t (fun r =>
      if r = 0xF then (if (s.getV x).toNat > (s.getV y).toNat then 1 else 0)
      else if r = x then BitVec.ofNat 8 ((256 + (s.getV x).toNat - (s.getV y).toNat) % 256) else s.getV r)) ∧
    (∃ t, exec (.subYX x y) s = .next t ∧ s.registersBecome t (fun r =>
      if r = 0xF then (if (s.getV y).toNat > (s.getV x).toNat then 1 else 0)
      else if r = x then BitVec.ofNat 8 ((256 + (s.getV y).toNat - (s.getV x).toNat) % 256) else s.getV r))

/-- R109: half of Vy when `legacy`, else of Vx, and VF as the source's low bit; that with x = F the flag is what stays
is the spec's decision D9 (log 13). -/
def Obligations.ShiftRightHalvesItsSource : Prop :=
  ∀ (x y : Nibble) (s : State) (source : Byte), source = (if s.cfg.legacy then s.getV y else s.getV x) →
    ∃ t, exec (.shiftRight x y) s = .next t ∧ s.registersBecome t (fun r =>
      if r = 0xF then BitVec.ofNat 8 (source.toNat % 2)
      else if r = x then BitVec.ofNat 8 (source.toNat / 2) else s.getV r)

/-- R111, with the spec's decisions D9, D10 and D11 (log 4, 13): twice Vy when `legacy`, else Vx, modulo 256, and VF as
bit 7 of the source when `legacy`, else as its bit SHL_FLAG_BIT. -/
def Obligations.ShiftLeftDoublesItsSource : Prop :=
  ∀ (x y : Nibble) (s : State) (source : Byte), source = (if s.cfg.legacy then s.getV y else s.getV x) →
    ∃ t, exec (.shiftLeft x y) s = .next t ∧ s.registersBecome t (fun r =>
      if r = 0xF then
        (if s.cfg.legacy ∨ s.cfg.shlFlagBit = .bit7 then BitVec.ofNat 8 (source.toNat / 128)
         else BitVec.ofNat 8 (source.toNat % 2))
      else if r = x then BitVec.ofNat 8 (source.toNat * 2 % 256) else s.getV r)

/-- R112, R171: the next random byte, whatever it is, and the mask; only that byte is used up. Where the byte comes
from is log 8. -/
def Obligations.RandomMasksTheNextByte : Prop :=
  ∀ (x : Nibble) (nn : Byte) (s : State), ∃ t, exec (.random x nn) s = .next t ∧
    (∀ r, t.getV r = if r = x then s.nextRandom &&& nn else s.getV r) ∧
    (∀ b rest, s.env.randomBytes = b :: rest → s.nextRandom = b ∧ t.env.randomBytes = rest) ∧
    t.env.trace = s.env.trace ∧ t.env.keyReplies = s.env.keyReplies ∧ t.env.replies = s.env.replies ∧
    { t with v := s.v, env := s.env } = s ∧ ∀ a, t.byteAt a = s.byteAt a

/-- 10_state.md R12: the six flag-writing instructions leave VF as 0 or 1 on every execution; a Draw that cannot read
its sprite executes nothing (the spec's decisions D3, D24). -/
def Obligations.FlagIsZeroOrOne : Prop :=
  ∀ (i : Instr) (s t : State), writesFlag i = true → exec i s = .next t →
    t.getV 0xF = 0 ∨ t.getV 0xF = 1 ∨ t = { s with halt := .halted (.addressFault .read s.i.toNat) }

/-- R11's table of writers, R12 and the spec's decision D12: an instruction writes no register but those named there. -/
def Obligations.RegistersHaveTheirWriters : Prop :=
  ∀ (i : Instr) (s t : State) (r : Nibble), exec i s = .next t → mayWriteV r i = false → t.getV r = s.getV r

/-! ## Index and memory -/

/-- R120, with the spec's decision D13: `nnn` is zero-extended into I. -/
def Obligations.LoadIndexZeroExtends : Prop :=
  ∀ (nnn : Addr12) (s : State), ∃ w : Word, w.toNat = nnn.toNat ∧
    exec (.loadIndex nnn) s = .next { s with i := w }

/-- R121 (no flag: the spec's decision D12) and R122 (no nibble mask: D38). -/
def Obligations.AddIndexAndLoadFontAddrWriteI : Prop :=
  ∀ (x : Nibble) (s : State),
    (∃ w : Word, w.toNat = (s.i.toNat + (s.getV x).toNat) % 65536 ∧ exec (.addIndex x) s = .next { s with i := w }) ∧
    (∃ w : Word, w.toNat = (s.getV x).toNat * 5 ∧ exec (.loadFontAddr x) s = .next { s with i := w })

/-- R123, with the spec's decision D3: ones, tens and hundreds at `I` upward, every other byte and everything else
unchanged; or AddressFault before any write. -/
def Obligations.StoreBCDWritesThreeDigits : Prop :=
  ∀ (x : Nibble) (s : State),
    (s.i.toNat + 2 ≤ 4095 → ∃ t, exec (.storeBCD x) s = .next t ∧
      (t.byteAt s.i.toNat).toNat = (s.getV x).toNat % 10 ∧
      (t.byteAt (s.i.toNat + 1)).toNat = (s.getV x).toNat / 10 % 10 ∧
      (t.byteAt (s.i.toNat + 2)).toNat = (s.getV x).toNat / 100 ∧
      (∀ a, a < s.i.toNat ∨ s.i.toNat + 2 < a → t.byteAt a = s.byteAt a) ∧ { t with mem := s.mem } = s) ∧
    (s.i.toNat + 2 > 4095 →
      exec (.storeBCD x) s = .next { s with halt := .halted (.addressFault .write s.i.toNat) })

/-- R124, with the spec's decisions D3 and D15: V0 to Vx at `I` upward, `I` kept, every other byte unchanged; or
AddressFault before any write. -/
def Obligations.StoreRegistersWritesItsRange : Prop :=
  ∀ (x : Nibble) (s : State),
    (s.i.toNat + x.toNat ≤ 4095 → ∃ t, exec (.storeRegisters x) s = .next t ∧
      (∀ r : Nibble, r.toNat ≤ x.toNat → t.byteAt (s.i.toNat + r.toNat) = s.getV r) ∧
      (∀ a, a < s.i.toNat ∨ s.i.toNat + x.toNat < a → t.byteAt a = s.byteAt a) ∧ { t with mem := s.mem } = s) ∧
    (s.i.toNat + x.toNat > 4095 →
      exec (.storeRegisters x) s = .next { s with halt := .halted (.addressFault .write s.i.toNat) })

/-- R125, with the spec's decisions D3 and D15: V0 to Vx from `I` upward, the registers above, `I` and memory kept; or
AddressFault before any register is written. -/
def Obligations.LoadRegistersReadsItsRange : Prop :=
  ∀ (x : Nibble) (s : State),
    (s.i.toNat + x.toNat ≤ 4095 → ∃ t, exec (.loadRegisters x) s = .next t ∧
      s.registersBecome t (fun r => if r.toNat ≤ x.toNat then s.byteAt (s.i.toNat + r.toNat) else s.getV r)) ∧
    (s.i.toNat + x.toNat > 4095 →
      exec (.loadRegisters x) s = .next { s with halt := .halted (.addressFault .read s.i.toNat) })

/-- The law of R125's example (95_test_vectors.md S8), which rests on `I` staying (D15): after a StoreRegisters, and
whatever the registers became since, a LoadRegisters from the same place restores them. -/
def Obligations.StoreThenLoadRestoresRegisters : Prop :=
  ∀ (x : Nibble) (s t u : State), s.i.toNat + x.toNat ≤ 4095 → exec (.storeRegisters x) s = .next t →
    u.mem = t.mem → u.cfg = t.cfg → u.i = t.i →
    ∃ w, exec (.loadRegisters x) u = .next w ∧
      ∀ r : Nibble, w.getV r = if r.toNat ≤ x.toNat then s.getV r else u.getV r

/-! ## Display -/

/-- R130: every cell is unlit (the spec's decision D13), and no boundary call is made (D14). -/
def Obligations.ClearUnlightsEveryCell : Prop :=
  ∀ s : State, ∃ t, exec .clear s = .next t ∧ FrameBuffer.shaped s.cfg.height s.cfg.width t.fb = true ∧
    (∀ r c, t.fb.get r c = false) ∧ { t with fb := s.fb } = s ∧ ∀ a, t.byteAt a = s.byteAt a

/-- R131, R132 (with the spec's decisions D8, D24 and D25): exactly the cells of the screen under a set sprite bit are
inverted, VF is 1 if one of them was lit and 0 otherwise, and the whole new grid is pushed once. The grid's shape is
the part of the invariant `State.sound` that the pixel addressing needs. -/
def Obligations.DrawInvertsExactlyTheSprite : Prop :=
  ∀ (x y n : Nibble) (s : State), FrameBuffer.shaped s.cfg.height s.cfg.width s.fb = true →
    (n = 0 ∨ s.i.toNat + n.toNat - 1 ≤ 4095) → s.nextReply = .ok →
    ∃ t, exec (.draw x y n) s = .next t ∧ FrameBuffer.shaped s.cfg.height s.cfg.width t.fb = true ∧
      (∀ r c, r < s.cfg.height → c < s.cfg.width →
        t.fb.get r c = (s.fb.get r c ^^ s.spriteBit x y n r c)) ∧
      (t.getV 0xF = 0 ∨ t.getV 0xF = 1) ∧
      (t.getV 0xF = 1 ↔ ∃ r c, r < s.cfg.height ∧ c < s.cfg.width ∧
        s.fb.get r c = true ∧ t.fb.get r c = false) ∧
      (∀ r, r ≠ 0xF → t.getV r = s.getV r) ∧
      t.env.trace = s.env.trace ++ [.updateScreen t.fb] ∧ t.env.keyReplies = s.env.keyReplies ∧
      t.env.replies = s.env.replies.tail ∧ t.env.randomBytes = s.env.randomBytes ∧
      { t with fb := s.fb, v := s.v, env := s.env } = s ∧ ∀ a, t.byteAt a = s.byteAt a

/-- 43_display.md R131, R134 (i): drawing the same sprite twice restores the grid. The second VF is 1 exactly when a
cell under the sprite was unlit before; R134 (i) says so of any set, unclipped sprite bit, which rule R131 gives only
where the cells were unlit (log 14). -/
def Obligations.DrawTwiceRestoresTheGrid : Prop :=
  ∀ (x y n : Nibble) (s t u : State), FrameBuffer.shaped s.cfg.height s.cfg.width s.fb = true →
    (n = 0 ∨ s.i.toNat + n.toNat - 1 ≤ 4095) → x ≠ 0xF → y ≠ 0xF →
    exec (.draw x y n) s = .next t → exec (.draw x y n) t = .next u →
    u.fb = s.fb ∧ (u.getV 0xF = 1 ↔ ∃ r c, r < s.cfg.height ∧ c < s.cfg.width ∧
      s.spriteBit x y n r c = true ∧ s.fb.get r c = false)

/-- R134 (a), the spec's decision D40: a Draw of no rows checks no address, changes no cell, clears VF and still pushes
the grid. -/
def Obligations.DrawOfNoRowsOnlyClearsTheFlag : Prop :=
  ∀ (x y : Nibble) (s : State), ∃ t, exec (.draw x y 0) s = .next t ∧ t.fb = s.fb ∧
    (∀ r, t.getV r = if r = 0xF then 0 else s.getV r) ∧ t.env.trace = s.env.trace ++ [.updateScreen s.fb] ∧
    t.env.keyReplies = s.env.keyReplies ∧ t.env.replies = s.env.replies.tail ∧ t.env.randomBytes = s.env.randomBytes ∧
    t.halt = (if s.nextReply = .ok then s.halt else .halted (.ioError .updateScreen)) ∧
    { t with v := s.v, env := s.env, halt := s.halt } = s

/-- R131, R153, the spec's decisions D3 and D24: a sprite that does not lie in memory is refused before anything
changes. -/
def Obligations.DrawOutsideMemoryFaults : Prop :=
  ∀ (x y n : Nibble) (s : State), n ≠ 0 → s.i.toNat + n.toNat - 1 > 4095 →
    exec (.draw x y n) s = .next { s with halt := .halted (.addressFault .read s.i.toNat) }

/-! ## Keys and timers -/

/-- R140, R141 for a register that names a key: SkipKeyDown clears the flag only when it skips, SkipKeyUp always. -/
def Obligations.KeySkipsConsumeTheFlag : Prop :=
  ∀ (x : Nibble) (s : State) (k : Fin 16), (s.getV x).toNat = k.val →
    exec (.skipKeyDown x) s =
      .next (if s.keys[k.val] = true then { s with keys := s.keys.set k.val false, pc := s.pc + 2 } else s) ∧
    exec (.skipKeyUp x) s = .next { s with
      keys := s.keys.set k.val false
      pc := if s.keys[k.val] = true then s.pc else s.pc + 2 }

/-- R155, the spec's decision D5: a register above 15 names no key, and nothing changes. -/
def Obligations.KeyIndexAbove15Faults : Prop :=
  ∀ (x : Nibble) (s : State), 15 < (s.getV x).toNat →
    exec (.skipKeyDown x) s = .next { s with halt := .halted (.keyIndexFault (s.getV x)) } ∧
    exec (.skipKeyUp x) s = .next { s with halt := .halted (.keyIndexFault (s.getV x)) }

/-- R142: the lowest set key is stored and cleared, the others stay; with no key set PC goes back by 2. -/
def Obligations.WaitKeyTakesTheLowestKey : Prop :=
  ∀ (x : Nibble) (s : State),
    (∀ k : Fin 16, s.keys[k.val] = true → (∀ j : Fin 16, j < k → s.keys[j.val] = false) →
      ∃ t, exec (.waitKey x) s = .next t ∧ (∀ r, t.getV r = if r = x then BitVec.ofNat 8 k.val else s.getV r) ∧
        (∀ j : Fin 16, t.keys[j.val] = if j = k then false else s.keys[j.val]) ∧
        { t with v := s.v, keys := s.keys } = s ∧ ∀ a, t.byteAt a = s.byteAt a) ∧
    ((∀ k : Fin 16, s.keys[k.val] = false) → exec (.waitKey x) s = .next { s with pc := s.pc - 2 })

/-- R142 over a whole step: while no press is reported the step changes nothing but what the tick and the key poll
before it change, and PC stays at the WaitKey. -/
def Obligations.WaitKeyStepStaysPut : Prop :=
  ∀ (x : Nibble) (s : State), s.runs (.waitKey x) →
    (∀ k : Fin 16, s.tickIfDue.keyPoll.keys[k.val] = false) →
    step s = .next { s.tickIfDue.keyPoll with batchLeft := s.tickIfDue.keyPoll.batchLeft - 1 } ∧
      s.tickIfDue.keyPoll.pc = s.pc

/-- R143, R144, with the spec's decision D13: the delay timer is read and written whole. -/
def Obligations.DelayTimerIsReadAndWritten : Prop :=
  ∀ (x : Nibble) (s : State),
    (∃ t, exec (.getDelay x) s = .next t ∧ s.registersBecome t (fun r => if r = x then s.dt else s.getV r)) ∧
    exec (.setDelay x) s = .next { s with dt := s.getV x }

/-- R145, with the spec's decisions D19 and D20: ST is written, and the boundary is asked to start the beep exactly
when ST goes from 0 to nonzero; its error halts the machine with ST written (D33). -/
def Obligations.SetSoundStartsTheBeepOnARisingEdge : Prop :=
  ∀ (x : Nibble) (s : State),
    (s.st = 0 → s.getV x ≠ 0 → ∃ t, exec (.setSound x) s = .next t ∧ t.st = s.getV x ∧
      t.env.trace = s.env.trace ++ [.startBeep] ∧ t.env.keyReplies = s.env.keyReplies ∧
      t.env.replies = s.env.replies.tail ∧ t.env.randomBytes = s.env.randomBytes ∧
      t.halt = (if s.nextReply = .ok then s.halt else .halted (.ioError .startBeep)) ∧
      { t with st := s.st, env := s.env, halt := s.halt } = s) ∧
    (s.st ≠ 0 ∨ s.getV x = 0 → exec (.setSound x) s = .next { s with st := s.getV x })

/-! ## The boundary -/

/-- R152, the spec's decision D33: when `update_screen` fails the new grid and flag stand, and the machine halts. -/
def Obligations.FailedDrawKeepsItsWrites : Prop :=
  ∀ (x y n : Nibble) (s t : State) (e : Env), (n = 0 ∨ s.i.toNat + n.toNat - 1 ≤ 4095) → s.nextReply = .ok →
    ({ s with env := e } : State).nextReply = .error → exec (.draw x y n) s = .next t →
    ∃ u, exec (.draw x y n) { s with env := e } = .next u ∧ u.halt = .halted (.ioError .updateScreen) ∧
      u.fb = t.fb ∧ u.v = t.v ∧ u.mem = t.mem ∧ u.i = t.i ∧ u.pc = t.pc

/-- R167: the outside world reaches the core only through the results of calls: two runs of an instruction from states
that differ in nothing but the outside world differ in nothing but the outside world and HALT, and for Random in its
destination. -/
def Obligations.OutsideWorldReachesOnlyHaltAndRandom : Prop :=
  ∀ (i : Instr) (s t u : State) (e : Env), exec i s = .next t → exec i { s with env := e } = .next u →
    { u with v := t.v, halt := t.halt, env := t.env } = t ∧
    ∀ r, (∀ nn, i ≠ .random r nn) → u.getV r = t.getV r

/-- 60_exceptions.md R164, R169 and 43_display.md R133 (with the spec's decisions D14, D19): an instruction asks the
boundary for nothing, but a Draw for one update with the grid as it leaves it, and a SetSound on a rising edge for one
start of the beep. -/
def Obligations.BoundaryRequestsComeFromTheirInstructions : Prop :=
  ∀ (i : Instr) (s t : State), exec i s = .next t →
    t.env.trace = s.env.trace ∨
    (∃ x y n, i = .draw x y n ∧ t.env.trace = s.env.trace ++ [.updateScreen t.fb]) ∨
    (∃ x, i = .setSound x ∧ s.st = 0 ∧ t.st ≠ 0 ∧ t.env.trace = s.env.trace ++ [.startBeep])

/-! ## The whole machine -/

/-- 10_state.md R13, R14, R16 to R21 and 00_scope.md R7: each piece of state is written by the instructions that the
rules name for it and by no other; the position in the batch is the model's own (log 9). -/
def Obligations.EachComponentHasItsWriters : Prop :=
  ∀ (i : Instr) (s t : State), exec i s = .next t →
    (t.i ≠ s.i → (∃ n, i = .loadIndex n) ∨ (∃ x, i = .addIndex x) ∨ ∃ x, i = .loadFontAddr x) ∧
    (t.pc ≠ s.pc → movesPc i = true) ∧
    (t.stack ≠ s.stack → i = .ret ∨ ∃ n, i = .call n) ∧
    (t.dt ≠ s.dt → ∃ x, i = .setDelay x) ∧ (t.st ≠ s.st → ∃ x, i = .setSound x) ∧
    (t.keys ≠ s.keys → (∃ x, i = .skipKeyDown x) ∨ (∃ x, i = .skipKeyUp x) ∨ ∃ x, i = .waitKey x) ∧
    (t.fb ≠ s.fb → i = .clear ∨ ∃ x y n, i = .draw x y n) ∧
    (t.mem ≠ s.mem → (∃ x, i = .storeBCD x) ∨ ∃ x, i = .storeRegisters x) ∧
    t.cfg = s.cfg ∧ t.batchLeft = s.batchLeft

/-- 60_exceptions.md R158, the spec's decision D26: a fault other than IOError leaves everything but HALT as the fetch
left it. -/
def Obligations.FaultsArePrecise : Prop :=
  ∀ (i : Instr) (s t : State) (f : Fault), s.halt = .running → exec i s = .next t → t.halt = .halted f →
    (∀ c, f ≠ .ioError c) → { t with halt := .running } = s

/-- The invariant `State.sound` (10_state.md R15, R20, 70 R183, R184, and the memory's canonical form) is kept by every
step from every state that meets it. -/
def Obligations.StepKeepsSoundness : Prop :=
  ∀ s t : State, s.sound = true → step s = .next t → t.sound = true

/-- The state after reset meets the invariant; its configuration is the model's choice (log 1 to 5). -/
def Obligations.ResetIsSound : Prop := State.reset.sound = true

/-- 70_reset_and_hazards.md R180 to R184: whatever is constructed meets the invariant. -/
def Obligations.ConstructedMachineIsSound : Prop :=
  ∀ (cfg : Config) (env : Env) (image : List Byte) (s : State), construct cfg env image = .ok s → s.sound = true

/-- 10_state.md R26, the spec's decisions D16, D17 and D26: the values after construction, for every valid
configuration, with no program byte loaded, and the schedule at its start, where a tick comes first (60 R166, 70 R180,
log 9); `State.reset` is that construction for a configuration of the model's
choice (log 1 to 5). -/
def Obligations.ConstructionGivesTheResetValues : Prop :=
  (∀ (cfg : Config) (env : Env), validConfig cfg = true → ∃ s, construct cfg env [] = .ok s ∧
    (∀ r, s.getV r = 0) ∧ s.i = 0 ∧ s.pc = 0x200 ∧ s.stack = [] ∧ s.dt = 0 ∧ s.st = 0 ∧
    (∀ k : Fin 16, s.keys[k.val] = false) ∧ (∀ r c, s.fb.get r c = false) ∧ s.halt = .running ∧
    (∀ a : Fin 80, s.byteAt a.val = cfg.font[a.val]) ∧ (∀ a, 80 ≤ a → s.byteAt a = 0) ∧
    s.batchLeft = 0 ∧ s.cfg = cfg ∧ s.env = env) ∧
  construct Config.customary Env.fresh [] = .ok State.reset

/-- 20_memory.md R57, 70_reset_and_hazards.md R180 (the bound is the spec's decision D18): byte j of the image stands at
0x200 + j, and everything else is as with no image. -/
def Obligations.ConstructionLoadsTheImage : Prop :=
  ∀ (cfg : Config) (env : Env) (image : List Byte), validConfig cfg = true → image.length ≤ 3584 →
    ∃ s, construct cfg env image = .ok s ∧
      (∀ (j : Nat) (h : j < image.length), s.byteAt (0x200 + j) = image[j]) ∧
      (∀ a, a < 0x200 ∨ 0x200 + image.length ≤ a → s.byteAt a = (State.initial cfg env).byteAt a) ∧
      { s with mem := [] } = State.initial cfg env

/-- 70_reset_and_hazards.md R183, R184, the spec's decisions D18 and D35, and 00_scope.md R6, whose bound of 8 on WIDTH
is its decision D6 (log 19): no machine is made with an invalid
configuration or with an image that does not fit. -/
def Obligations.ConstructionRefusesInvalidInputs : Prop :=
  ∀ (cfg : Config) (env : Env) (image : List Byte),
    (cfg.opcodesPerCycle < 1 ∨ cfg.timerHz < 1 ∨ cfg.width < 8 ∨ cfg.height < 1 →
      construct cfg env image = .error .invalidConfiguration) ∧
    (1 ≤ cfg.opcodesPerCycle → 1 ≤ cfg.timerHz → 8 ≤ cfg.width → 1 ≤ cfg.height → image.length > 3584 →
      construct cfg env image = .error (.imageTooLong image.length))

/-- 20_memory.md R55, the spec's decision D36: the fetch after a StoreRegisters or a StoreBCD (the two stores; 42 R123,
R124) reads the stored bytes, wherever PC then stands in them. The high byte first is R43, its decision D2 (log 19). -/
def Obligations.StoredBytesAreFetchedNext : Prop :=
  (∀ (x p q : Nibble) (s t : State), s.i.toNat + x.toNat ≤ 4095 → q.toNat = p.toNat + 1 → q.toNat ≤ x.toNat →
    exec (.storeRegisters x) s = .next t → t.pc.toNat = s.i.toNat + p.toNat →
    ∃ w : Word, t.fetchWord = .ok w ∧ w.toNat = (s.getV p).toNat * 256 + (s.getV q).toNat) ∧
  ∀ (x : Nibble) (s t : State), s.i.toNat + 2 ≤ 4095 → exec (.storeBCD x) s = .next t →
    (t.pc.toNat = s.i.toNat → ∃ w : Word, t.fetchWord = .ok w ∧
      w.toNat = (s.getV x).toNat % 10 * 256 + (s.getV x).toNat / 10 % 10) ∧
    (t.pc.toNat = s.i.toNat + 1 → ∃ w : Word, t.fetchWord = .ok w ∧
      w.toNat = (s.getV x).toNat / 10 % 10 * 256 + (s.getV x).toNat / 100)

/-- 40 R83, 70 R185: while no tick is due and `get_key` answers that no event is waiting, a Jump to its own address
changes nothing but the position in the batch, the model's own field (log 9), and that the answer is used up (log 7).
The handler's meaning is the spec's decision D13, the word's byte order D2 (log 19). -/
def Obligations.JumpToItselfSettles : Prop :=
  ∀ (nnn : Addr12) (s : State), s.runs (.jump nnn) → nnn.toNat = s.pc.toNat → s.batchLeft ≠ 0 →
    s.nextKeyReply = .noEvent →
    ∃ t, step s = .next t ∧ t.batchLeft = s.batchLeft - 1 ∧ t.env.keyReplies = s.env.keyReplies.tail ∧
      t.env.replies = s.env.replies ∧ t.env.randomBytes = s.env.randomBytes ∧ t.env.trace = s.env.trace ∧
      { t with batchLeft := s.batchLeft, env := s.env } = s

/-- 00_scope.md R7: the configuration is constant for the whole run. -/
def Obligations.ConfigurationNeverChanges : Prop :=
  ∀ (n : Nat) (s t : State), core.run n s = .next t → t.cfg = s.cfg
end

