-- ==== Sys2Proof/Laws/State.lean ====
section
/-! SUPPORT. One lemma per field of the state and per update: what the update leaves or writes there. No later proof
unfolds a record update. -/

namespace Sys2Proof.Machine

variable (s : State)

@[simp] theorem State.raise_v (f : Fault) : (s.raise f).v = s.v := rfl
@[simp] theorem State.raise_i (f : Fault) : (s.raise f).i = s.i := rfl
@[simp] theorem State.raise_pc (f : Fault) : (s.raise f).pc = s.pc := rfl
@[simp] theorem State.raise_stack (f : Fault) : (s.raise f).stack = s.stack := rfl
@[simp] theorem State.raise_dt (f : Fault) : (s.raise f).dt = s.dt := rfl
@[simp] theorem State.raise_st (f : Fault) : (s.raise f).st = s.st := rfl
@[simp] theorem State.raise_keys (f : Fault) : (s.raise f).keys = s.keys := rfl
@[simp] theorem State.raise_fb (f : Fault) : (s.raise f).fb = s.fb := rfl
@[simp] theorem State.raise_mem (f : Fault) : (s.raise f).mem = s.mem := rfl
@[simp] theorem State.raise_halt (f : Fault) : (s.raise f).halt = .halted f := rfl
@[simp] theorem State.raise_batchLeft (f : Fault) : (s.raise f).batchLeft = s.batchLeft := rfl
@[simp] theorem State.raise_cfg (f : Fault) : (s.raise f).cfg = s.cfg := rfl
@[simp] theorem State.raise_env (f : Fault) : (s.raise f).env = s.env := rfl

@[simp] theorem State.setV_v (x : Nibble) (b : Byte) : (s.setV x b).v = s.v.set x.toNat b x.isLt := rfl
@[simp] theorem State.setV_i (x : Nibble) (b : Byte) : (s.setV x b).i = s.i := rfl
@[simp] theorem State.setV_pc (x : Nibble) (b : Byte) : (s.setV x b).pc = s.pc := rfl
@[simp] theorem State.setV_stack (x : Nibble) (b : Byte) : (s.setV x b).stack = s.stack := rfl
@[simp] theorem State.setV_dt (x : Nibble) (b : Byte) : (s.setV x b).dt = s.dt := rfl
@[simp] theorem State.setV_st (x : Nibble) (b : Byte) : (s.setV x b).st = s.st := rfl
@[simp] theorem State.setV_keys (x : Nibble) (b : Byte) : (s.setV x b).keys = s.keys := rfl
@[simp] theorem State.setV_fb (x : Nibble) (b : Byte) : (s.setV x b).fb = s.fb := rfl
@[simp] theorem State.setV_mem (x : Nibble) (b : Byte) : (s.setV x b).mem = s.mem := rfl
@[simp] theorem State.setV_halt (x : Nibble) (b : Byte) : (s.setV x b).halt = s.halt := rfl
@[simp] theorem State.setV_batchLeft (x : Nibble) (b : Byte) : (s.setV x b).batchLeft = s.batchLeft := rfl
@[simp] theorem State.setV_cfg (x : Nibble) (b : Byte) : (s.setV x b).cfg = s.cfg := rfl
@[simp] theorem State.setV_env (x : Nibble) (b : Byte) : (s.setV x b).env = s.env := rfl

@[simp] theorem State.setI_v (w : Word) : (s.setI w).v = s.v := rfl
@[simp] theorem State.setI_i (w : Word) : (s.setI w).i = w := rfl
@[simp] theorem State.setI_pc (w : Word) : (s.setI w).pc = s.pc := rfl
@[simp] theorem State.setI_stack (w : Word) : (s.setI w).stack = s.stack := rfl
@[simp] theorem State.setI_dt (w : Word) : (s.setI w).dt = s.dt := rfl
@[simp] theorem State.setI_st (w : Word) : (s.setI w).st = s.st := rfl
@[simp] theorem State.setI_keys (w : Word) : (s.setI w).keys = s.keys := rfl
@[simp] theorem State.setI_fb (w : Word) : (s.setI w).fb = s.fb := rfl
@[simp] theorem State.setI_mem (w : Word) : (s.setI w).mem = s.mem := rfl
@[simp] theorem State.setI_halt (w : Word) : (s.setI w).halt = s.halt := rfl
@[simp] theorem State.setI_batchLeft (w : Word) : (s.setI w).batchLeft = s.batchLeft := rfl
@[simp] theorem State.setI_cfg (w : Word) : (s.setI w).cfg = s.cfg := rfl
@[simp] theorem State.setI_env (w : Word) : (s.setI w).env = s.env := rfl

@[simp] theorem State.setPc_v (w : Word) : (s.setPc w).v = s.v := rfl
@[simp] theorem State.setPc_i (w : Word) : (s.setPc w).i = s.i := rfl
@[simp] theorem State.setPc_pc (w : Word) : (s.setPc w).pc = w := rfl
@[simp] theorem State.setPc_stack (w : Word) : (s.setPc w).stack = s.stack := rfl
@[simp] theorem State.setPc_dt (w : Word) : (s.setPc w).dt = s.dt := rfl
@[simp] theorem State.setPc_st (w : Word) : (s.setPc w).st = s.st := rfl
@[simp] theorem State.setPc_keys (w : Word) : (s.setPc w).keys = s.keys := rfl
@[simp] theorem State.setPc_fb (w : Word) : (s.setPc w).fb = s.fb := rfl
@[simp] theorem State.setPc_mem (w : Word) : (s.setPc w).mem = s.mem := rfl
@[simp] theorem State.setPc_halt (w : Word) : (s.setPc w).halt = s.halt := rfl
@[simp] theorem State.setPc_batchLeft (w : Word) : (s.setPc w).batchLeft = s.batchLeft := rfl
@[simp] theorem State.setPc_cfg (w : Word) : (s.setPc w).cfg = s.cfg := rfl
@[simp] theorem State.setPc_env (w : Word) : (s.setPc w).env = s.env := rfl

@[simp] theorem State.advancePc_v : s.advancePc.v = s.v := rfl
@[simp] theorem State.advancePc_i : s.advancePc.i = s.i := rfl
@[simp] theorem State.advancePc_pc : s.advancePc.pc = s.pc + 2 := rfl
@[simp] theorem State.advancePc_stack : s.advancePc.stack = s.stack := rfl
@[simp] theorem State.advancePc_dt : s.advancePc.dt = s.dt := rfl
@[simp] theorem State.advancePc_st : s.advancePc.st = s.st := rfl
@[simp] theorem State.advancePc_keys : s.advancePc.keys = s.keys := rfl
@[simp] theorem State.advancePc_fb : s.advancePc.fb = s.fb := rfl
@[simp] theorem State.advancePc_mem : s.advancePc.mem = s.mem := rfl
@[simp] theorem State.advancePc_halt : s.advancePc.halt = s.halt := rfl
@[simp] theorem State.advancePc_batchLeft : s.advancePc.batchLeft = s.batchLeft := rfl
@[simp] theorem State.advancePc_cfg : s.advancePc.cfg = s.cfg := rfl
@[simp] theorem State.advancePc_env : s.advancePc.env = s.env := rfl

@[simp] theorem State.push_v (w : Word) : (s.push w).v = s.v := rfl
@[simp] theorem State.push_i (w : Word) : (s.push w).i = s.i := rfl
@[simp] theorem State.push_pc (w : Word) : (s.push w).pc = s.pc := rfl
@[simp] theorem State.push_stack (w : Word) : (s.push w).stack = s.stack ++ [w] := rfl
@[simp] theorem State.push_dt (w : Word) : (s.push w).dt = s.dt := rfl
@[simp] theorem State.push_st (w : Word) : (s.push w).st = s.st := rfl
@[simp] theorem State.push_keys (w : Word) : (s.push w).keys = s.keys := rfl
@[simp] theorem State.push_fb (w : Word) : (s.push w).fb = s.fb := rfl
@[simp] theorem State.push_mem (w : Word) : (s.push w).mem = s.mem := rfl
@[simp] theorem State.push_halt (w : Word) : (s.push w).halt = s.halt := rfl
@[simp] theorem State.push_batchLeft (w : Word) : (s.push w).batchLeft = s.batchLeft := rfl
@[simp] theorem State.push_cfg (w : Word) : (s.push w).cfg = s.cfg := rfl
@[simp] theorem State.push_env (w : Word) : (s.push w).env = s.env := rfl

@[simp] theorem State.dropTop_v : s.dropTop.v = s.v := rfl
@[simp] theorem State.dropTop_i : s.dropTop.i = s.i := rfl
@[simp] theorem State.dropTop_pc : s.dropTop.pc = s.pc := rfl
@[simp] theorem State.dropTop_stack : s.dropTop.stack = s.stack.dropLast := rfl
@[simp] theorem State.dropTop_dt : s.dropTop.dt = s.dt := rfl
@[simp] theorem State.dropTop_st : s.dropTop.st = s.st := rfl
@[simp] theorem State.dropTop_keys : s.dropTop.keys = s.keys := rfl
@[simp] theorem State.dropTop_fb : s.dropTop.fb = s.fb := rfl
@[simp] theorem State.dropTop_mem : s.dropTop.mem = s.mem := rfl
@[simp] theorem State.dropTop_halt : s.dropTop.halt = s.halt := rfl
@[simp] theorem State.dropTop_batchLeft : s.dropTop.batchLeft = s.batchLeft := rfl
@[simp] theorem State.dropTop_cfg : s.dropTop.cfg = s.cfg := rfl
@[simp] theorem State.dropTop_env : s.dropTop.env = s.env := rfl

@[simp] theorem State.setDt_v (b : Byte) : (s.setDt b).v = s.v := rfl
@[simp] theorem State.setDt_i (b : Byte) : (s.setDt b).i = s.i := rfl
@[simp] theorem State.setDt_pc (b : Byte) : (s.setDt b).pc = s.pc := rfl
@[simp] theorem State.setDt_stack (b : Byte) : (s.setDt b).stack = s.stack := rfl
@[simp] theorem State.setDt_dt (b : Byte) : (s.setDt b).dt = b := rfl
@[simp] theorem State.setDt_st (b : Byte) : (s.setDt b).st = s.st := rfl
@[simp] theorem State.setDt_keys (b : Byte) : (s.setDt b).keys = s.keys := rfl
@[simp] theorem State.setDt_fb (b : Byte) : (s.setDt b).fb = s.fb := rfl
@[simp] theorem State.setDt_mem (b : Byte) : (s.setDt b).mem = s.mem := rfl
@[simp] theorem State.setDt_halt (b : Byte) : (s.setDt b).halt = s.halt := rfl
@[simp] theorem State.setDt_batchLeft (b : Byte) : (s.setDt b).batchLeft = s.batchLeft := rfl
@[simp] theorem State.setDt_cfg (b : Byte) : (s.setDt b).cfg = s.cfg := rfl
@[simp] theorem State.setDt_env (b : Byte) : (s.setDt b).env = s.env := rfl

@[simp] theorem State.setSt_v (b : Byte) : (s.setSt b).v = s.v := rfl
@[simp] theorem State.setSt_i (b : Byte) : (s.setSt b).i = s.i := rfl
@[simp] theorem State.setSt_pc (b : Byte) : (s.setSt b).pc = s.pc := rfl
@[simp] theorem State.setSt_stack (b : Byte) : (s.setSt b).stack = s.stack := rfl
@[simp] theorem State.setSt_dt (b : Byte) : (s.setSt b).dt = s.dt := rfl
@[simp] theorem State.setSt_st (b : Byte) : (s.setSt b).st = b := rfl
@[simp] theorem State.setSt_keys (b : Byte) : (s.setSt b).keys = s.keys := rfl
@[simp] theorem State.setSt_fb (b : Byte) : (s.setSt b).fb = s.fb := rfl
@[simp] theorem State.setSt_mem (b : Byte) : (s.setSt b).mem = s.mem := rfl
@[simp] theorem State.setSt_halt (b : Byte) : (s.setSt b).halt = s.halt := rfl
@[simp] theorem State.setSt_batchLeft (b : Byte) : (s.setSt b).batchLeft = s.batchLeft := rfl
@[simp] theorem State.setSt_cfg (b : Byte) : (s.setSt b).cfg = s.cfg := rfl
@[simp] theorem State.setSt_env (b : Byte) : (s.setSt b).env = s.env := rfl

@[simp] theorem State.setKey_v (k : Fin 16) (b : Bool) : (s.setKey k b).v = s.v := rfl
@[simp] theorem State.setKey_i (k : Fin 16) (b : Bool) : (s.setKey k b).i = s.i := rfl
@[simp] theorem State.setKey_pc (k : Fin 16) (b : Bool) : (s.setKey k b).pc = s.pc := rfl
@[simp] theorem State.setKey_stack (k : Fin 16) (b : Bool) : (s.setKey k b).stack = s.stack := rfl
@[simp] theorem State.setKey_dt (k : Fin 16) (b : Bool) : (s.setKey k b).dt = s.dt := rfl
@[simp] theorem State.setKey_st (k : Fin 16) (b : Bool) : (s.setKey k b).st = s.st := rfl
@[simp] theorem State.setKey_keys (k : Fin 16) (b : Bool) : (s.setKey k b).keys = s.keys.set k.val b k.isLt := rfl
@[simp] theorem State.setKey_fb (k : Fin 16) (b : Bool) : (s.setKey k b).fb = s.fb := rfl
@[simp] theorem State.setKey_mem (k : Fin 16) (b : Bool) : (s.setKey k b).mem = s.mem := rfl
@[simp] theorem State.setKey_halt (k : Fin 16) (b : Bool) : (s.setKey k b).halt = s.halt := rfl
@[simp] theorem State.setKey_batchLeft (k : Fin 16) (b : Bool) : (s.setKey k b).batchLeft = s.batchLeft := rfl
@[simp] theorem State.setKey_cfg (k : Fin 16) (b : Bool) : (s.setKey k b).cfg = s.cfg := rfl
@[simp] theorem State.setKey_env (k : Fin 16) (b : Bool) : (s.setKey k b).env = s.env := rfl

@[simp] theorem State.setFb_v (g : FrameBuffer) : (s.setFb g).v = s.v := rfl
@[simp] theorem State.setFb_i (g : FrameBuffer) : (s.setFb g).i = s.i := rfl
@[simp] theorem State.setFb_pc (g : FrameBuffer) : (s.setFb g).pc = s.pc := rfl
@[simp] theorem State.setFb_stack (g : FrameBuffer) : (s.setFb g).stack = s.stack := rfl
@[simp] theorem State.setFb_dt (g : FrameBuffer) : (s.setFb g).dt = s.dt := rfl
@[simp] theorem State.setFb_st (g : FrameBuffer) : (s.setFb g).st = s.st := rfl
@[simp] theorem State.setFb_keys (g : FrameBuffer) : (s.setFb g).keys = s.keys := rfl
@[simp] theorem State.setFb_fb (g : FrameBuffer) : (s.setFb g).fb = g := rfl
@[simp] theorem State.setFb_mem (g : FrameBuffer) : (s.setFb g).mem = s.mem := rfl
@[simp] theorem State.setFb_halt (g : FrameBuffer) : (s.setFb g).halt = s.halt := rfl
@[simp] theorem State.setFb_batchLeft (g : FrameBuffer) : (s.setFb g).batchLeft = s.batchLeft := rfl
@[simp] theorem State.setFb_cfg (g : FrameBuffer) : (s.setFb g).cfg = s.cfg := rfl
@[simp] theorem State.setFb_env (g : FrameBuffer) : (s.setFb g).env = s.env := rfl

@[simp] theorem State.putBytes_v (a : Nat) (bs : List Byte) : (s.putBytes a bs).v = s.v := rfl
@[simp] theorem State.putBytes_i (a : Nat) (bs : List Byte) : (s.putBytes a bs).i = s.i := rfl
@[simp] theorem State.putBytes_pc (a : Nat) (bs : List Byte) : (s.putBytes a bs).pc = s.pc := rfl
@[simp] theorem State.putBytes_stack (a : Nat) (bs : List Byte) : (s.putBytes a bs).stack = s.stack := rfl
@[simp] theorem State.putBytes_dt (a : Nat) (bs : List Byte) : (s.putBytes a bs).dt = s.dt := rfl
@[simp] theorem State.putBytes_st (a : Nat) (bs : List Byte) : (s.putBytes a bs).st = s.st := rfl
@[simp] theorem State.putBytes_keys (a : Nat) (bs : List Byte) : (s.putBytes a bs).keys = s.keys := rfl
@[simp] theorem State.putBytes_fb (a : Nat) (bs : List Byte) : (s.putBytes a bs).fb = s.fb := rfl
@[simp] theorem State.putBytes_mem (a : Nat) (bs : List Byte) : (s.putBytes a bs).mem = Memory.writeList s.cfg.font a bs s.mem := rfl
@[simp] theorem State.putBytes_halt (a : Nat) (bs : List Byte) : (s.putBytes a bs).halt = s.halt := rfl
@[simp] theorem State.putBytes_batchLeft (a : Nat) (bs : List Byte) : (s.putBytes a bs).batchLeft = s.batchLeft := rfl
@[simp] theorem State.putBytes_cfg (a : Nat) (bs : List Byte) : (s.putBytes a bs).cfg = s.cfg := rfl
@[simp] theorem State.putBytes_env (a : Nat) (bs : List Byte) : (s.putBytes a bs).env = s.env := rfl

@[simp] theorem State.callBoundary_v (c : BoundaryCall) (e : BoundaryEvent) : (s.callBoundary c e).v = s.v := rfl
@[simp] theorem State.callBoundary_i (c : BoundaryCall) (e : BoundaryEvent) : (s.callBoundary c e).i = s.i := rfl
@[simp] theorem State.callBoundary_pc (c : BoundaryCall) (e : BoundaryEvent) : (s.callBoundary c e).pc = s.pc := rfl
@[simp] theorem State.callBoundary_stack (c : BoundaryCall) (e : BoundaryEvent) : (s.callBoundary c e).stack = s.stack := rfl
@[simp] theorem State.callBoundary_dt (c : BoundaryCall) (e : BoundaryEvent) : (s.callBoundary c e).dt = s.dt := rfl
@[simp] theorem State.callBoundary_st (c : BoundaryCall) (e : BoundaryEvent) : (s.callBoundary c e).st = s.st := rfl
@[simp] theorem State.callBoundary_keys (c : BoundaryCall) (e : BoundaryEvent) : (s.callBoundary c e).keys = s.keys := rfl
@[simp] theorem State.callBoundary_fb (c : BoundaryCall) (e : BoundaryEvent) : (s.callBoundary c e).fb = s.fb := rfl
@[simp] theorem State.callBoundary_mem (c : BoundaryCall) (e : BoundaryEvent) : (s.callBoundary c e).mem = s.mem := rfl
@[simp] theorem State.callBoundary_batchLeft (c : BoundaryCall) (e : BoundaryEvent) : (s.callBoundary c e).batchLeft = s.batchLeft := rfl
@[simp] theorem State.callBoundary_cfg (c : BoundaryCall) (e : BoundaryEvent) : (s.callBoundary c e).cfg = s.cfg := rfl
@[simp] theorem State.callBoundary_env (c : BoundaryCall) (e : BoundaryEvent) : (s.callBoundary c e).env = s.env.afterCall e := rfl

@[simp] theorem State.takeRandom_v : s.takeRandom.v = s.v := rfl
@[simp] theorem State.takeRandom_i : s.takeRandom.i = s.i := rfl
@[simp] theorem State.takeRandom_pc : s.takeRandom.pc = s.pc := rfl
@[simp] theorem State.takeRandom_stack : s.takeRandom.stack = s.stack := rfl
@[simp] theorem State.takeRandom_dt : s.takeRandom.dt = s.dt := rfl
@[simp] theorem State.takeRandom_st : s.takeRandom.st = s.st := rfl
@[simp] theorem State.takeRandom_keys : s.takeRandom.keys = s.keys := rfl
@[simp] theorem State.takeRandom_fb : s.takeRandom.fb = s.fb := rfl
@[simp] theorem State.takeRandom_mem : s.takeRandom.mem = s.mem := rfl
@[simp] theorem State.takeRandom_halt : s.takeRandom.halt = s.halt := rfl
@[simp] theorem State.takeRandom_batchLeft : s.takeRandom.batchLeft = s.batchLeft := rfl
@[simp] theorem State.takeRandom_cfg : s.takeRandom.cfg = s.cfg := rfl
@[simp] theorem State.takeRandom_env : s.takeRandom.env = s.env.afterRandom := rfl

@[simp] theorem State.takeKeyReply_v : s.takeKeyReply.v = s.v := rfl
@[simp] theorem State.takeKeyReply_i : s.takeKeyReply.i = s.i := rfl
@[simp] theorem State.takeKeyReply_pc : s.takeKeyReply.pc = s.pc := rfl
@[simp] theorem State.takeKeyReply_stack : s.takeKeyReply.stack = s.stack := rfl
@[simp] theorem State.takeKeyReply_dt : s.takeKeyReply.dt = s.dt := rfl
@[simp] theorem State.takeKeyReply_st : s.takeKeyReply.st = s.st := rfl
@[simp] theorem State.takeKeyReply_keys : s.takeKeyReply.keys = s.keys := rfl
@[simp] theorem State.takeKeyReply_fb : s.takeKeyReply.fb = s.fb := rfl
@[simp] theorem State.takeKeyReply_mem : s.takeKeyReply.mem = s.mem := rfl
@[simp] theorem State.takeKeyReply_halt : s.takeKeyReply.halt = s.halt := rfl
@[simp] theorem State.takeKeyReply_batchLeft : s.takeKeyReply.batchLeft = s.batchLeft := rfl
@[simp] theorem State.takeKeyReply_cfg : s.takeKeyReply.cfg = s.cfg := rfl
@[simp] theorem State.takeKeyReply_env : s.takeKeyReply.env = s.env.afterKeyReply := rfl

@[simp] theorem State.takeSlot_v : s.takeSlot.v = s.v := rfl
@[simp] theorem State.takeSlot_i : s.takeSlot.i = s.i := rfl
@[simp] theorem State.takeSlot_pc : s.takeSlot.pc = s.pc := rfl
@[simp] theorem State.takeSlot_stack : s.takeSlot.stack = s.stack := rfl
@[simp] theorem State.takeSlot_dt : s.takeSlot.dt = s.dt := rfl
@[simp] theorem State.takeSlot_st : s.takeSlot.st = s.st := rfl
@[simp] theorem State.takeSlot_keys : s.takeSlot.keys = s.keys := rfl
@[simp] theorem State.takeSlot_fb : s.takeSlot.fb = s.fb := rfl
@[simp] theorem State.takeSlot_mem : s.takeSlot.mem = s.mem := rfl
@[simp] theorem State.takeSlot_halt : s.takeSlot.halt = s.halt := rfl
@[simp] theorem State.takeSlot_batchLeft : s.takeSlot.batchLeft = s.batchLeft - 1 := rfl
@[simp] theorem State.takeSlot_cfg : s.takeSlot.cfg = s.cfg := rfl
@[simp] theorem State.takeSlot_env : s.takeSlot.env = s.env := rfl

@[simp] theorem State.skipIf_v (c : Bool) : (s.skipIf c).v = s.v := rfl
@[simp] theorem State.skipIf_i (c : Bool) : (s.skipIf c).i = s.i := rfl
@[simp] theorem State.skipIf_pc (c : Bool) : (s.skipIf c).pc = if c then s.pc + 2 else s.pc := rfl
@[simp] theorem State.skipIf_stack (c : Bool) : (s.skipIf c).stack = s.stack := rfl
@[simp] theorem State.skipIf_dt (c : Bool) : (s.skipIf c).dt = s.dt := rfl
@[simp] theorem State.skipIf_st (c : Bool) : (s.skipIf c).st = s.st := rfl
@[simp] theorem State.skipIf_keys (c : Bool) : (s.skipIf c).keys = s.keys := rfl
@[simp] theorem State.skipIf_fb (c : Bool) : (s.skipIf c).fb = s.fb := rfl
@[simp] theorem State.skipIf_mem (c : Bool) : (s.skipIf c).mem = s.mem := rfl
@[simp] theorem State.skipIf_halt (c : Bool) : (s.skipIf c).halt = s.halt := rfl
@[simp] theorem State.skipIf_batchLeft (c : Bool) : (s.skipIf c).batchLeft = s.batchLeft := rfl
@[simp] theorem State.skipIf_cfg (c : Bool) : (s.skipIf c).cfg = s.cfg := rfl
@[simp] theorem State.skipIf_env (c : Bool) : (s.skipIf c).env = s.env := rfl

@[simp] theorem State.setResultAndFlag_i (x : Nibble) (b : Byte) (c : Bool) : (s.setResultAndFlag x b c).i = s.i := rfl
@[simp] theorem State.setResultAndFlag_pc (x : Nibble) (b : Byte) (c : Bool) : (s.setResultAndFlag x b c).pc = s.pc := rfl
@[simp] theorem State.setResultAndFlag_stack (x : Nibble) (b : Byte) (c : Bool) : (s.setResultAndFlag x b c).stack = s.stack := rfl
@[simp] theorem State.setResultAndFlag_dt (x : Nibble) (b : Byte) (c : Bool) : (s.setResultAndFlag x b c).dt = s.dt := rfl
@[simp] theorem State.setResultAndFlag_st (x : Nibble) (b : Byte) (c : Bool) : (s.setResultAndFlag x b c).st = s.st := rfl
@[simp] theorem State.setResultAndFlag_keys (x : Nibble) (b : Byte) (c : Bool) : (s.setResultAndFlag x b c).keys = s.keys := rfl
@[simp] theorem State.setResultAndFlag_fb (x : Nibble) (b : Byte) (c : Bool) : (s.setResultAndFlag x b c).fb = s.fb := rfl
@[simp] theorem State.setResultAndFlag_mem (x : Nibble) (b : Byte) (c : Bool) : (s.setResultAndFlag x b c).mem = s.mem := rfl
@[simp] theorem State.setResultAndFlag_halt (x : Nibble) (b : Byte) (c : Bool) : (s.setResultAndFlag x b c).halt = s.halt := rfl
@[simp] theorem State.setResultAndFlag_batchLeft (x : Nibble) (b : Byte) (c : Bool) : (s.setResultAndFlag x b c).batchLeft = s.batchLeft := rfl
@[simp] theorem State.setResultAndFlag_cfg (x : Nibble) (b : Byte) (c : Bool) : (s.setResultAndFlag x b c).cfg = s.cfg := rfl
@[simp] theorem State.setResultAndFlag_env (x : Nibble) (b : Byte) (c : Bool) : (s.setResultAndFlag x b c).env = s.env := rfl

@[simp] theorem State.loadRegistersTo_i (x : Nibble) : (s.loadRegistersTo x).i = s.i := rfl
@[simp] theorem State.loadRegistersTo_pc (x : Nibble) : (s.loadRegistersTo x).pc = s.pc := rfl
@[simp] theorem State.loadRegistersTo_stack (x : Nibble) : (s.loadRegistersTo x).stack = s.stack := rfl
@[simp] theorem State.loadRegistersTo_dt (x : Nibble) : (s.loadRegistersTo x).dt = s.dt := rfl
@[simp] theorem State.loadRegistersTo_st (x : Nibble) : (s.loadRegistersTo x).st = s.st := rfl
@[simp] theorem State.loadRegistersTo_keys (x : Nibble) : (s.loadRegistersTo x).keys = s.keys := rfl
@[simp] theorem State.loadRegistersTo_fb (x : Nibble) : (s.loadRegistersTo x).fb = s.fb := rfl
@[simp] theorem State.loadRegistersTo_mem (x : Nibble) : (s.loadRegistersTo x).mem = s.mem := rfl
@[simp] theorem State.loadRegistersTo_halt (x : Nibble) : (s.loadRegistersTo x).halt = s.halt := rfl
@[simp] theorem State.loadRegistersTo_batchLeft (x : Nibble) : (s.loadRegistersTo x).batchLeft = s.batchLeft := rfl
@[simp] theorem State.loadRegistersTo_cfg (x : Nibble) : (s.loadRegistersTo x).cfg = s.cfg := rfl
@[simp] theorem State.loadRegistersTo_env (x : Nibble) : (s.loadRegistersTo x).env = s.env := rfl

@[simp] theorem State.updateScreen_v : s.updateScreen.v = s.v := rfl
@[simp] theorem State.updateScreen_i : s.updateScreen.i = s.i := rfl
@[simp] theorem State.updateScreen_pc : s.updateScreen.pc = s.pc := rfl
@[simp] theorem State.updateScreen_stack : s.updateScreen.stack = s.stack := rfl
@[simp] theorem State.updateScreen_dt : s.updateScreen.dt = s.dt := rfl
@[simp] theorem State.updateScreen_st : s.updateScreen.st = s.st := rfl
@[simp] theorem State.updateScreen_keys : s.updateScreen.keys = s.keys := rfl
@[simp] theorem State.updateScreen_fb : s.updateScreen.fb = s.fb := rfl
@[simp] theorem State.updateScreen_mem : s.updateScreen.mem = s.mem := rfl
@[simp] theorem State.updateScreen_batchLeft : s.updateScreen.batchLeft = s.batchLeft := rfl
@[simp] theorem State.updateScreen_cfg : s.updateScreen.cfg = s.cfg := rfl
@[simp] theorem State.updateScreen_env : s.updateScreen.env = s.env.afterCall (.updateScreen s.fb) := rfl

theorem State.callBoundary_halt (c : BoundaryCall) (e : BoundaryEvent) : (s.callBoundary c e).halt =
    match s.nextReply with
    | .ok => s.halt
    | .error => .halted (.ioError c) := rfl

/-! ## The outside world after each of its answers -/

@[simp] theorem Env.afterCall_keyReplies (env : Env) (e : BoundaryEvent) : (env.afterCall e).keyReplies = env.keyReplies := rfl
@[simp] theorem Env.afterCall_replies (env : Env) (e : BoundaryEvent) : (env.afterCall e).replies = env.replies.tail := rfl
@[simp] theorem Env.afterCall_randomBytes (env : Env) (e : BoundaryEvent) : (env.afterCall e).randomBytes = env.randomBytes := rfl
@[simp] theorem Env.afterCall_freeCount (env : Env) (e : BoundaryEvent) : (env.afterCall e).freeCount = freeAfter env.replies env.freeCount := rfl
@[simp] theorem Env.afterCall_trace (env : Env) (e : BoundaryEvent) : (env.afterCall e).trace = env.trace ++ [e] := rfl

@[simp] theorem Env.afterRandom_keyReplies (env : Env) : (env.afterRandom).keyReplies = env.keyReplies := rfl
@[simp] theorem Env.afterRandom_replies (env : Env) : (env.afterRandom).replies = env.replies := rfl
@[simp] theorem Env.afterRandom_randomBytes (env : Env) : (env.afterRandom).randomBytes = env.randomBytes.tail := rfl
@[simp] theorem Env.afterRandom_freeCount (env : Env) : (env.afterRandom).freeCount = freeAfter env.randomBytes env.freeCount := rfl
@[simp] theorem Env.afterRandom_trace (env : Env) : (env.afterRandom).trace = env.trace := rfl

@[simp] theorem Env.afterKeyReply_keyReplies (env : Env) : (env.afterKeyReply).keyReplies = env.keyReplies.tail := rfl
@[simp] theorem Env.afterKeyReply_replies (env : Env) : (env.afterKeyReply).replies = env.replies := rfl
@[simp] theorem Env.afterKeyReply_randomBytes (env : Env) : (env.afterKeyReply).randomBytes = env.randomBytes := rfl
@[simp] theorem Env.afterKeyReply_freeCount (env : Env) : (env.afterKeyReply).freeCount = freeAfter env.keyReplies env.freeCount := rfl
@[simp] theorem Env.afterKeyReply_trace (env : Env) : (env.afterKeyReply).trace = env.trace := rfl

end Sys2Proof.Machine
end

