-- ==== Sys2Proof/Laws/Memory.lean ====
section
/-! SUPPORT. Memory's laws: a read after a write, and that every memory operation keeps the canonical form. -/

namespace Sys2Proof.Machine

theorem Memory.find_erase (a b : Nat) (m : Memory) :
    Memory.find b (Memory.erase a m) = if b = a then none else Memory.find b m := by
  unfold Memory.erase
  induction m with
  | nil => simp [Memory.find]
  | cons c rest ih =>
    by_cases hc : c.1 = a <;> by_cases hb : b = a <;> simp_all [Memory.find]
    · intro h; omega

theorem Memory.find_insert (a b : Nat) (w : Byte) (m : Memory) (ha : Memory.find a m = none) :
    Memory.find b (Memory.insert a w m) = if b = a then some w else Memory.find b m := by
  induction m with
  | nil => simp [Memory.insert, Memory.find, eq_comm]
  | cons c rest ih =>
    have hca : c.1 ≠ a := by intro h; simp [Memory.find, h] at ha
    have hr : Memory.find a rest = none := by simpa [Memory.find, hca] using ha
    by_cases hlt : a < c.1
    · simp [Memory.insert, hlt, Memory.find, eq_comm (a := a)]
    · by_cases hcb : c.1 = b
      · have hba : b ≠ a := by omega
        rw [Memory.insert, if_neg hlt]
        simp [Memory.find, hcb, hba]
      · simp [Memory.insert, hlt, Memory.find, hcb, ih hr]

/-- A read after a write: the written byte at its address, and every other address as before. -/
theorem Memory.read_write (font : Vector Byte 80) (a b : Nat) (w : Byte) (m : Memory) :
    Memory.read font (Memory.write font a w m) b = if b = a then w else Memory.read font m b := by
  have he : Memory.find a (Memory.erase a m) = none := by simp [Memory.find_erase]
  unfold Memory.read Memory.write
  by_cases hw : w = unlistedByte font a <;> by_cases hb : b = a <;>
    simp [hw, hb, Memory.find_erase, Memory.find_insert _ _ _ _ he]

/-- A read after writing a list of bytes: the list's bytes in its range, and every other address as before. -/
theorem Memory.read_writeList (font : Vector Byte 80) (bs : List Byte) (a b : Nat) (m : Memory) :
    Memory.read font (Memory.writeList font a bs m) b =
      if h : a ≤ b ∧ b < a + bs.length then bs[b - a]'(by omega) else Memory.read font m b := by
  induction bs generalizing a m with
  | nil => simp [Memory.writeList]
  | cons c cs ih =>
    rw [Memory.writeList, ih, Memory.read_write]
    by_cases hba : b = a
    · subst hba; simp
    · by_cases h : a + 1 ≤ b ∧ b < a + 1 + cs.length
      · have h2 : a ≤ b ∧ b < a + (c :: cs).length := by simp; omega
        have h3 : b - a = (b - (a + 1)) + 1 := by omega
        simp only [h, h2, and_self, dite_true]
        simp [h3]
      · have h2 : ¬ (a ≤ b ∧ b < a + (c :: cs).length) := by simp; omega
        simp only [h, h2, dite_false, hba, if_false]

theorem Memory.sorted_iff (m : Memory) : Memory.sorted m = true ↔ m.Pairwise (fun c d => c.1 < d.1) := by
  induction m with
  | nil => simp [Memory.sorted]
  | cons c rest ih =>
    cases rest with
    | nil => simp [Memory.sorted]
    | cons d ds =>
      rw [Memory.sorted, Bool.and_eq_true, ih, decide_eq_true_eq, List.pairwise_cons (a := c)]
      constructor
      · rintro ⟨h1, h2⟩
        refine ⟨?_, h2⟩
        intro e he
        rcases List.mem_cons.1 he with rfl | he
        · exact h1
        · exact lt_trans h1 ((List.pairwise_cons.1 h2).1 e he)
      · rintro ⟨h1, h2⟩
        exact ⟨h1 d (by simp), h2⟩

theorem Memory.wf_iff (font : Vector Byte 80) (m : Memory) : Memory.wf font m = true ↔
    m.Pairwise (fun c d => c.1 < d.1) ∧ ∀ c ∈ m, c.1 < memSize ∧ c.2 ≠ unlistedByte font c.1 := by
  simp [Memory.wf, Memory.sorted_iff, List.all_eq_true, -Prod.forall]

theorem Memory.mem_insert (a : Nat) (w : Byte) (m : Memory) (c : Host.Cell) :
    c ∈ Memory.insert a w m ↔ c = (a, w) ∨ c ∈ m := by
  induction m with
  | nil => simp [Memory.insert]
  | cons d rest ih =>
    unfold Memory.insert
    split
    · simp
    · simp only [List.mem_cons, ih]; tauto

theorem Memory.insert_sorted (a : Nat) (w : Byte) (m : Memory) (hm : m.Pairwise (fun c d => c.1 < d.1))
    (ha : ∀ c ∈ m, c.1 ≠ a) : (Memory.insert a w m).Pairwise (fun c d => c.1 < d.1) := by
  induction m with
  | nil => simp [Memory.insert]
  | cons c rest ih =>
    rw [List.pairwise_cons] at hm
    unfold Memory.insert
    split
    · rename_i hlt
      refine List.pairwise_cons.2 ⟨?_, List.pairwise_cons.2 hm⟩
      intro d hd
      rcases List.mem_cons.1 hd with rfl | hd
      · exact hlt
      · exact lt_trans hlt (hm.1 d hd)
    · rename_i hlt
      have hca : c.1 ≠ a := ha c (by simp)
      refine List.pairwise_cons.2 ⟨?_, ih hm.2 (fun d hd => ha d (by simp [hd]))⟩
      intro d hd
      rcases (Memory.mem_insert a w rest d).1 hd with rfl | hd
      · show c.1 < a; omega
      · exact hm.1 d hd

/-- Writing a byte at an address that exists keeps the canonical form. -/
theorem Memory.write_wf (font : Vector Byte 80) (a : Nat) (w : Byte) (m : Memory) (ha : a < memSize)
    (hm : Memory.wf font m = true) : Memory.wf font (Memory.write font a w m) = true := by
  rw [Memory.wf_iff] at hm ⊢
  have he : (Memory.erase a m).Pairwise (fun c d => c.1 < d.1) := hm.1.filter _
  have hmem : ∀ c ∈ Memory.erase a m, c ∈ m ∧ c.1 ≠ a := by
    intro c hc
    simpa [Memory.erase, List.mem_filter] using hc
  unfold Memory.write
  split
  · exact ⟨he, fun c hc => hm.2 c (hmem c hc).1⟩
  · rename_i hw
    refine ⟨Memory.insert_sorted a w _ he (fun c hc => (hmem c hc).2), ?_⟩
    intro c hc
    rcases (Memory.mem_insert a w _ c).1 hc with rfl | hc
    · exact ⟨ha, hw⟩
    · exact hm.2 c (hmem c hc).1

/-- Writing bytes whose addresses all exist keeps the canonical form. -/
theorem Memory.writeList_wf (font : Vector Byte 80) (bs : List Byte) (a : Nat) (m : Memory)
    (ha : a + bs.length ≤ memSize) (hm : Memory.wf font m = true) :
    Memory.wf font (Memory.writeList font a bs m) = true := by
  induction bs generalizing a m with
  | nil => exact hm
  | cons c cs ih =>
    rw [List.length_cons] at ha
    exact ih (a + 1) _ (by omega) (Memory.write_wf font a c m (by omega) hm)

theorem reset_memory_wf : Memory.wf State.reset.cfg.font State.reset.mem = true := rfl

/-- Reading after `putBytes`: the stored bytes in their range, every other byte as before. -/
theorem State.byteAt_putBytes (s : State) (a b : Nat) (bs : List Byte) :
    (s.putBytes a bs).byteAt b = if h : a ≤ b ∧ b < a + bs.length then bs[b - a]'(by omega) else s.byteAt b :=
  Memory.read_writeList s.cfg.font bs a b s.mem

/-- An update that leaves memory and the configuration leaves every byte. -/
theorem State.byteAt_congr (s t : State) (hm : t.mem = s.mem) (hc : t.cfg = s.cfg) (a : Nat) :
    t.byteAt a = s.byteAt a := by
  simp [State.byteAt, hm, hc]

end Sys2Proof.Machine
end

