-- ==== Sys2Proof/Laws/Ops.lean ====
section
/-! SUPPORT. For each shared operation, everything it can do, said once. -/

namespace Sys2Proof.Machine

variable (s : State)

@[simp] theorem State.raise_getV (f : Fault) (r : Nibble) : (s.raise f).getV r = s.getV r := rfl
@[simp] theorem State.raise_byteAt (f : Fault) (addr : Nat) : (s.raise f).byteAt addr = s.byteAt addr := rfl
@[simp] theorem State.setV_byteAt (x : Nibble) (b : Byte) (addr : Nat) : (s.setV x b).byteAt addr = s.byteAt addr := rfl
@[simp] theorem State.setI_getV (w : Word) (r : Nibble) : (s.setI w).getV r = s.getV r := rfl
@[simp] theorem State.setI_byteAt (w : Word) (addr : Nat) : (s.setI w).byteAt addr = s.byteAt addr := rfl
@[simp] theorem State.setPc_getV (w : Word) (r : Nibble) : (s.setPc w).getV r = s.getV r := rfl
@[simp] theorem State.setPc_byteAt (w : Word) (addr : Nat) : (s.setPc w).byteAt addr = s.byteAt addr := rfl
@[simp] theorem State.advancePc_getV (r : Nibble) : s.advancePc.getV r = s.getV r := rfl
@[simp] theorem State.advancePc_byteAt (addr : Nat) : s.advancePc.byteAt addr = s.byteAt addr := rfl
@[simp] theorem State.push_getV (w : Word) (r : Nibble) : (s.push w).getV r = s.getV r := rfl
@[simp] theorem State.push_byteAt (w : Word) (addr : Nat) : (s.push w).byteAt addr = s.byteAt addr := rfl
@[simp] theorem State.dropTop_getV (r : Nibble) : s.dropTop.getV r = s.getV r := rfl
@[simp] theorem State.dropTop_byteAt (addr : Nat) : s.dropTop.byteAt addr = s.byteAt addr := rfl
@[simp] theorem State.setDt_getV (b : Byte) (r : Nibble) : (s.setDt b).getV r = s.getV r := rfl
@[simp] theorem State.setDt_byteAt (b : Byte) (addr : Nat) : (s.setDt b).byteAt addr = s.byteAt addr := rfl
@[simp] theorem State.setSt_getV (b : Byte) (r : Nibble) : (s.setSt b).getV r = s.getV r := rfl
@[simp] theorem State.setSt_byteAt (b : Byte) (addr : Nat) : (s.setSt b).byteAt addr = s.byteAt addr := rfl
@[simp] theorem State.setKey_getV (k : Fin 16) (b : Bool) (r : Nibble) : (s.setKey k b).getV r = s.getV r := rfl
@[simp] theorem State.setKey_byteAt (k : Fin 16) (b : Bool) (addr : Nat) : (s.setKey k b).byteAt addr = s.byteAt addr := rfl
@[simp] theorem State.setFb_getV (g : FrameBuffer) (r : Nibble) : (s.setFb g).getV r = s.getV r := rfl
@[simp] theorem State.setFb_byteAt (g : FrameBuffer) (addr : Nat) : (s.setFb g).byteAt addr = s.byteAt addr := rfl
@[simp] theorem State.putBytes_getV (a : Nat) (bs : List Byte) (r : Nibble) : (s.putBytes a bs).getV r = s.getV r := rfl
@[simp] theorem State.callBoundary_getV (c : BoundaryCall) (e : BoundaryEvent) (r : Nibble) : (s.callBoundary c e).getV r = s.getV r := rfl
@[simp] theorem State.callBoundary_byteAt (c : BoundaryCall) (e : BoundaryEvent) (addr : Nat) : (s.callBoundary c e).byteAt addr = s.byteAt addr := rfl
@[simp] theorem State.takeRandom_getV (r : Nibble) : s.takeRandom.getV r = s.getV r := rfl
@[simp] theorem State.takeRandom_byteAt (addr : Nat) : s.takeRandom.byteAt addr = s.byteAt addr := rfl
@[simp] theorem State.takeKeyReply_getV (r : Nibble) : s.takeKeyReply.getV r = s.getV r := rfl
@[simp] theorem State.takeKeyReply_byteAt (addr : Nat) : s.takeKeyReply.byteAt addr = s.byteAt addr := rfl
@[simp] theorem State.takeSlot_getV (r : Nibble) : s.takeSlot.getV r = s.getV r := rfl
@[simp] theorem State.takeSlot_byteAt (addr : Nat) : s.takeSlot.byteAt addr = s.byteAt addr := rfl
@[simp] theorem State.skipIf_getV (c : Bool) (r : Nibble) : (s.skipIf c).getV r = s.getV r := rfl
@[simp] theorem State.skipIf_byteAt (c : Bool) (addr : Nat) : (s.skipIf c).byteAt addr = s.byteAt addr := rfl
@[simp] theorem State.setResultAndFlag_byteAt (x : Nibble) (b : Byte) (c : Bool) (addr : Nat) : (s.setResultAndFlag x b c).byteAt addr = s.byteAt addr := rfl
@[simp] theorem State.loadRegistersTo_byteAt (x : Nibble) (addr : Nat) : (s.loadRegistersTo x).byteAt addr = s.byteAt addr := rfl
@[simp] theorem State.updateScreen_getV (r : Nibble) : s.updateScreen.getV r = s.getV r := rfl
@[simp] theorem State.updateScreen_byteAt (addr : Nat) : s.updateScreen.byteAt addr = s.byteAt addr := rfl

/-- Reading a register after writing one. -/
@[simp] theorem State.setV_getV (x r : Nibble) (b : Byte) : (s.setV x b).getV r = if r = x then b else s.getV r := by
  simp only [State.getV, State.setV, Vector.getElem_set, ← BitVec.toNat_inj, eq_comm]

@[simp] theorem State.setResultAndFlag_getV (x r : Nibble) (b : Byte) (c : Bool) :
    (s.setResultAndFlag x b c).getV r = if r = vf then flagByte c else if r = x then b else s.getV r := by
  simp [State.setResultAndFlag]

@[simp] theorem State.loadRegistersTo_getV (x r : Nibble) :
    (s.loadRegistersTo x).getV r = if r.toNat ≤ x.toNat then s.byteAt (s.i.toNat + r.toNat) else s.getV r := by
  simp [State.getV, State.loadRegistersTo]

/-- Register files that agree on every register number are equal. -/
theorem v_ext (t : State) (h : ∀ r, t.getV r = s.getV r) : t.v = s.v := by
  apply Vector.ext
  intro j hj
  have := h (BitVec.ofNat 4 j)
  have hm : j % 16 = j := Nat.mod_eq_of_lt hj
  simpa [State.getV, hm] using this

@[simp] theorem State.registersTo_length (x : Nibble) : (s.registersTo x).length = x.toNat + 1 := by
  have := x.isLt
  simp [State.registersTo]; omega

/-- The stored list of StoreRegisters holds register j at place j. -/
theorem State.registersTo_getElem (x r : Nibble) (h : r.toNat < (s.registersTo x).length) :
    (s.registersTo x)[r.toNat] = s.getV r := by
  simp [State.registersTo, State.getV]

@[simp] theorem State.bytesFrom_length (a n : Nat) : (s.bytesFrom a n).length = n := by simp [State.bytesFrom]

theorem State.bytesFrom_getElem (a n j : Nat) (h : j < (s.bytesFrom a n).length) :
    (s.bytesFrom a n)[j] = s.byteAt (a + j) := by
  simp [State.bytesFrom]

theorem flagByte_zero_or_one (c : Bool) : flagByte c = 0 ∨ flagByte c = 1 := by cases c <;> simp [flagByte]

theorem rangeInMemory_iff (a n : Nat) : rangeInMemory a n = true ↔ n = 0 ∨ a + n ≤ 4096 := by
  simp [rangeInMemory]

/-- An instruction that touches memory at `I` either completes, its whole range existing, or raises AddressFault with
nothing else changed. -/
theorem State.withRange_next (k : AccessKind) (n : Nat) (t u : State) : s.withRange k n t = .next u ↔
    (rangeInMemory s.i.toNat n = true ∧ u = t) ∨
      (rangeInMemory s.i.toNat n = false ∧ u = s.raise (.addressFault k s.i.toNat)) := by
  unfold State.withRange
  cases h : rangeInMemory s.i.toNat n <;> simp [eq_comm]

theorem State.withRange_in (k : AccessKind) (n : Nat) (t : State) (h : rangeInMemory s.i.toNat n = true) :
    s.withRange k n t = .next t := by simp [State.withRange, h]

theorem State.withRange_out (k : AccessKind) (n : Nat) (t : State) (h : rangeInMemory s.i.toNat n = false) :
    s.withRange k n t = .next (s.raise (.addressFault k s.i.toNat)) := by simp [State.withRange, h]

theorem keyIndex_some (b : Byte) (k : Fin 16) : keyIndex b = some k ↔ b.toNat = k.val := by
  unfold keyIndex
  split
  · simp [Fin.ext_iff]
  · simp; omega

theorem keyIndex_none (b : Byte) : keyIndex b = none ↔ 15 < b.toNat := by
  unfold keyIndex
  split
  · simp; omega
  · simp; omega

theorem leastSetKey_none (keys : Vector Bool 16) : leastSetKey keys = none ↔ ∀ k : Fin 16, keys[k.val] = false := by
  simp [leastSetKey]

/-- The least set key is set and no lower one is. -/
theorem leastSetKey_some (keys : Vector Bool 16) (k : Fin 16) : leastSetKey keys = some k ↔
    keys[k.val] = true ∧ ∀ j : Fin 16, j < k → keys[j.val] = false := by
  unfold leastSetKey
  rw [List.find?_eq_some_iff_getElem]
  constructor
  · rintro ⟨h, i, hi, hik, hlt⟩
    refine ⟨h, fun j hj => ?_⟩
    have hki : k.val = i := by rw [← hik]; simp
    have := hlt j.val (by rw [← hki]; exact hj)
    simpa using this
  · rintro ⟨h, hlt⟩
    refine ⟨h, k.val, by simp, by simp, fun j hj => ?_⟩
    have hk := k.isLt
    have := hlt ⟨j, by omega⟩ (by simpa [Fin.lt_def] using hj)
    simpa using this

/-- A boundary call on which the boundary answers ok leaves HALT. -/
theorem State.callBoundary_ok (c : BoundaryCall) (e : BoundaryEvent) (h : s.nextReply = .ok) :
    s.callBoundary c e = { s with env := s.env.afterCall e } := by
  simp [State.callBoundary, h]

/-- A boundary call on which the boundary answers error raises IOError and keeps every earlier write. -/
theorem State.callBoundary_error (c : BoundaryCall) (e : BoundaryEvent) (h : s.nextReply = .error) :
    s.callBoundary c e = { s with env := s.env.afterCall e, halt := .halted (.ioError c) } := by
  simp [State.callBoundary, h, State.raise]

/-- The fetch gives the two bytes at PC, or AddressFault when one of them does not exist. -/
theorem State.fetchWord_ok (h : s.pc.toNat ≤ 4094) :
    s.fetchWord = .ok (wordOfBytes (s.byteAt s.pc.toNat) (s.byteAt (s.pc.toNat + 1))) := by
  simp [State.fetchWord]; omega

theorem State.fetchWord_error (h : 4094 < s.pc.toNat) : s.fetchWord = .error (.addressFault .fetch s.pc.toNat) := by
  simp [State.fetchWord]; omega

end Sys2Proof.Machine
end

