-- ==== Sys2Proof/Laws/PerInstr.lean ====
section
/-! SUPPORT. Statements made per instruction: the word of every instruction fits its row of the opcode map
(30_encoding.md R64, R65). -/

namespace Sys2Proof

theorem nibble_and_ones (a : Nibble) : a &&& 15#4 = a := BitVec.and_allOnes (x := a)

theorem byte_and_ones (a : Byte) : a &&& 255#8 = a := BitVec.and_allOnes (x := a)

/-- The fixed bits of the formats of 30_encoding.md R62 under their masks. -/
theorem formatA_masked (op : Nibble) (nnn : Addr12) : formatA op nnn &&& 0xF000 = formatA op 0 := by
  unfold formatA
  rw [show (0xF000 : Word) = (0xF : Nibble) ++ (0 : Addr12) from rfl, BitVec.and_append]
  simp [nibble_and_ones]

theorem formatXI_masked (op x : Nibble) (nn : Byte) : formatXI op x nn &&& 0xF000 = formatXI op 0 0 := by
  unfold formatXI
  rw [show (0xF000 : Word) = (0xF : Nibble) ++ (0 : Nibble) ++ (0 : Byte) from rfl, BitVec.and_append, BitVec.and_append]
  simp [nibble_and_ones]

theorem formatXF_masked (op x : Nibble) (nn : Byte) : formatXI op x nn &&& 0xF0FF = formatXI op 0 nn := by
  unfold formatXI
  rw [show (0xF0FF : Word) = (0xF : Nibble) ++ (0 : Nibble) ++ (0xFF : Byte) from rfl, BitVec.and_append,
    BitVec.and_append]
  simp [nibble_and_ones, byte_and_ones]

theorem formatXY_masked (op x y n : Nibble) : formatXY op x y n &&& 0xF00F = formatXY op 0 0 n := by
  unfold formatXY
  rw [show (0xF00F : Word) = (0xF : Nibble) ++ (0 : Nibble) ++ (0 : Nibble) ++ (0xF : Nibble) from rfl, BitVec.and_append,
    BitVec.and_append, BitVec.and_append]
  simp [nibble_and_ones]

theorem formatXYN_masked (op x y n : Nibble) : formatXY op x y n &&& 0xF000 = formatXY op 0 0 0 := by
  unfold formatXY
  rw [show (0xF000 : Word) = (0xF : Nibble) ++ (0 : Nibble) ++ (0 : Nibble) ++ (0 : Nibble) from rfl, BitVec.and_append,
    BitVec.and_append, BitVec.and_append]
  simp [nibble_and_ones]

namespace Laws.OpcodeFit

/-- The instruction's row is in the opcode map, and its word has the row's fixed bits. -/
def Statement (i : Instr) : Prop := i.row ∈ opcodeTable ∧ encode i &&& i.row.mask = i.row.bits

theorem clear : Statement (.clear) := ⟨by decide, by decide⟩
theorem ret : Statement (.ret) := ⟨by decide, by decide⟩
theorem jump (nnn : Addr12) : Statement (.jump nnn) := ⟨by simp [opcodeTable, Instr.row], formatA_masked _ _⟩
theorem call (nnn : Addr12) : Statement (.call nnn) := ⟨by simp [opcodeTable, Instr.row], formatA_masked _ _⟩
theorem skipEqImm (x : Nibble) (nn : Byte) : Statement (.skipEqImm x nn) := ⟨by simp [opcodeTable, Instr.row], formatXI_masked _ _ _⟩
theorem skipNeqImm (x : Nibble) (nn : Byte) : Statement (.skipNeqImm x nn) := ⟨by simp [opcodeTable, Instr.row], formatXI_masked _ _ _⟩
theorem skipEqReg (x : Nibble) (y : Nibble) : Statement (.skipEqReg x y) := ⟨by simp [opcodeTable, Instr.row], formatXY_masked _ _ _ _⟩
theorem loadImm (x : Nibble) (nn : Byte) : Statement (.loadImm x nn) := ⟨by simp [opcodeTable, Instr.row], formatXI_masked _ _ _⟩
theorem addImm (x : Nibble) (nn : Byte) : Statement (.addImm x nn) := ⟨by simp [opcodeTable, Instr.row], formatXI_masked _ _ _⟩
theorem move (x : Nibble) (y : Nibble) : Statement (.move x y) := ⟨by simp [opcodeTable, Instr.row], formatXY_masked _ _ _ _⟩
theorem or (x : Nibble) (y : Nibble) : Statement (.or x y) := ⟨by simp [opcodeTable, Instr.row], formatXY_masked _ _ _ _⟩
theorem and (x : Nibble) (y : Nibble) : Statement (.and x y) := ⟨by simp [opcodeTable, Instr.row], formatXY_masked _ _ _ _⟩
theorem xor (x : Nibble) (y : Nibble) : Statement (.xor x y) := ⟨by simp [opcodeTable, Instr.row], formatXY_masked _ _ _ _⟩
theorem addReg (x : Nibble) (y : Nibble) : Statement (.addReg x y) := ⟨by simp [opcodeTable, Instr.row], formatXY_masked _ _ _ _⟩
theorem subXY (x : Nibble) (y : Nibble) : Statement (.subXY x y) := ⟨by simp [opcodeTable, Instr.row], formatXY_masked _ _ _ _⟩
theorem shiftRight (x : Nibble) (y : Nibble) : Statement (.shiftRight x y) := ⟨by simp [opcodeTable, Instr.row], formatXY_masked _ _ _ _⟩
theorem subYX (x : Nibble) (y : Nibble) : Statement (.subYX x y) := ⟨by simp [opcodeTable, Instr.row], formatXY_masked _ _ _ _⟩
theorem shiftLeft (x : Nibble) (y : Nibble) : Statement (.shiftLeft x y) := ⟨by simp [opcodeTable, Instr.row], formatXY_masked _ _ _ _⟩
theorem skipNeqReg (x : Nibble) (y : Nibble) : Statement (.skipNeqReg x y) := ⟨by simp [opcodeTable, Instr.row], formatXY_masked _ _ _ _⟩
theorem loadIndex (nnn : Addr12) : Statement (.loadIndex nnn) := ⟨by simp [opcodeTable, Instr.row], formatA_masked _ _⟩
theorem jumpOffset (nnn : Addr12) (x : Nibble) : Statement (.jumpOffset nnn x) := ⟨by simp [opcodeTable, Instr.row], formatA_masked _ _⟩
theorem random (x : Nibble) (nn : Byte) : Statement (.random x nn) := ⟨by simp [opcodeTable, Instr.row], formatXI_masked _ _ _⟩
theorem draw (x : Nibble) (y : Nibble) (n : Nibble) : Statement (.draw x y n) := ⟨by simp [opcodeTable, Instr.row], formatXYN_masked _ _ _ _⟩
theorem skipKeyDown (x : Nibble) : Statement (.skipKeyDown x) := ⟨by simp [opcodeTable, Instr.row], formatXF_masked _ _ _⟩
theorem skipKeyUp (x : Nibble) : Statement (.skipKeyUp x) := ⟨by simp [opcodeTable, Instr.row], formatXF_masked _ _ _⟩
theorem getDelay (x : Nibble) : Statement (.getDelay x) := ⟨by simp [opcodeTable, Instr.row], formatXF_masked _ _ _⟩
theorem waitKey (x : Nibble) : Statement (.waitKey x) := ⟨by simp [opcodeTable, Instr.row], formatXF_masked _ _ _⟩
theorem setDelay (x : Nibble) : Statement (.setDelay x) := ⟨by simp [opcodeTable, Instr.row], formatXF_masked _ _ _⟩
theorem setSound (x : Nibble) : Statement (.setSound x) := ⟨by simp [opcodeTable, Instr.row], formatXF_masked _ _ _⟩
theorem addIndex (x : Nibble) : Statement (.addIndex x) := ⟨by simp [opcodeTable, Instr.row], formatXF_masked _ _ _⟩
theorem loadFontAddr (x : Nibble) : Statement (.loadFontAddr x) := ⟨by simp [opcodeTable, Instr.row], formatXF_masked _ _ _⟩
theorem storeBCD (x : Nibble) : Statement (.storeBCD x) := ⟨by simp [opcodeTable, Instr.row], formatXF_masked _ _ _⟩
theorem storeRegisters (x : Nibble) : Statement (.storeRegisters x) := ⟨by simp [opcodeTable, Instr.row], formatXF_masked _ _ _⟩
theorem loadRegisters (x : Nibble) : Statement (.loadRegisters x) := ⟨by simp [opcodeTable, Instr.row], formatXF_masked _ _ _⟩

end Laws.OpcodeFit

end Sys2Proof
end

