-- ==== Sys2Proof/Laws/Raster.lean ====
section
/-! SUPPORT. What drawing does to the grid: a relation between the canvas before and after that composes. -/

namespace Sys2Proof.Machine

theorem FrameBuffer.shaped_iff (height width : Nat) (g : FrameBuffer) :
    FrameBuffer.shaped height width g = true ↔ g.length = height ∧ ∀ row ∈ g, row.length = width := by
  simp [FrameBuffer.shaped, List.all_eq_true]

theorem FrameBuffer.blank_shaped (height width : Nat) :
    FrameBuffer.shaped height width (FrameBuffer.blank height width) = true := by
  simp [FrameBuffer.shaped_iff, FrameBuffer.blank]

theorem FrameBuffer.blank_get (height width r c : Nat) : (FrameBuffer.blank height width).get r c = false := by
  unfold FrameBuffer.blank FrameBuffer.get
  by_cases hr : r < height <;> by_cases hc : c < width <;> simp [hr, hc]

theorem FrameBuffer.row_length (height width r : Nat) (g : FrameBuffer)
    (hg : FrameBuffer.shaped height width g = true) (hr : r < height) : (g.getD r []).length = width := by
  obtain ⟨hl, hrow⟩ := (FrameBuffer.shaped_iff height width g).1 hg
  have : g.getD r [] = g[r]'(by omega) := by simp [List.getD, List.getElem?_eq_getElem (show r < g.length by omega)]
  rw [this]
  exact hrow _ (List.getElem_mem _)

theorem FrameBuffer.set_shaped (height width r c : Nat) (b : Bool) (g : FrameBuffer)
    (hg : FrameBuffer.shaped height width g = true) (hr : r < height) :
    FrameBuffer.shaped height width (g.set r c b) = true := by
  have hlen := FrameBuffer.row_length height width r g hg hr
  rw [FrameBuffer.shaped_iff] at hg ⊢
  refine ⟨by simp [FrameBuffer.set, hg.1], ?_⟩
  intro row hrow
  rcases List.mem_or_eq_of_mem_set hrow with h | h
  · exact hg.2 row h
  · rw [h, List.length_set, hlen]

/-- Reading a cell after setting one that is on the screen. -/
theorem FrameBuffer.get_set (height width r c r' c' : Nat) (b : Bool) (g : FrameBuffer)
    (hg : FrameBuffer.shaped height width g = true) (hr : r < height) (hc : c < width) :
    (g.set r c b).get r' c' = if r' = r ∧ c' = c then b else g.get r' c' := by
  have hlen := FrameBuffer.row_length height width r g hg hr
  obtain ⟨hl, -⟩ := (FrameBuffer.shaped_iff height width g).1 hg
  unfold FrameBuffer.set FrameBuffer.get
  by_cases h1 : r' = r
  · subst h1
    have hr' : r' < g.length := by omega
    simp only [List.getD_eq_getElem?_getD, List.getElem?_set_self hr', Option.getD_some, true_and] at hlen ⊢
    by_cases h2 : c' = c
    · subst h2
      simp [hlen, hc]
    · simp [h2, List.getElem?_set_ne (Ne.symm h2)]
  · simp [h1, List.getElem?_set_ne (Ne.symm h1)]

/-- What drawing a set `P` of screen cells once each does: the grid keeps its shape, exactly the cells of `P` are
inverted, and a collision is one more of them having been set. -/
structure Canvas.Toggles (height width : Nat) (P : Nat → Nat → Bool) (d d' : Canvas) : Prop where
  shape : FrameBuffer.shaped height width d'.fb = true
  cell : ∀ r c, r < height → c < width → d'.fb.get r c = (d.fb.get r c ^^ P r c)
  hit : d'.collision = true ↔
    d.collision = true ∨ ∃ r c, r < height ∧ c < width ∧ P r c = true ∧ d.fb.get r c = true

theorem Canvas.Toggles.refl (height width : Nat) (d : Canvas) (hd : FrameBuffer.shaped height width d.fb = true) :
    Canvas.Toggles height width (fun _ _ => false) d d :=
  ⟨hd, by simp, by simp⟩

/-- Drawing two disjoint sets of cells one after the other. -/
theorem Canvas.Toggles.trans {height width : Nat} {P Q : Nat → Nat → Bool} {d e f : Canvas}
    (h1 : Canvas.Toggles height width P d e) (h2 : Canvas.Toggles height width Q e f)
    (hPQ : ∀ r c, P r c = true → Q r c = false) : Canvas.Toggles height width (fun r c => P r c || Q r c) d f := by
  refine ⟨h2.shape, ?_, ?_⟩
  · intro r c hr hc
    rw [h2.cell r c hr hc, h1.cell r c hr hc]
    have := hPQ r c
    cases hP : P r c <;> cases hQ : Q r c <;> simp_all
  · rw [h2.hit, h1.hit]
    constructor
    · rintro ((h | ⟨r, c, hr, hc, hP, hg⟩) | ⟨r, c, hr, hc, hQ, hg⟩)
      · exact .inl h
      · exact .inr ⟨r, c, hr, hc, by simp [hP], hg⟩
      · refine .inr ⟨r, c, hr, hc, by simp [hQ], ?_⟩
        have hP : P r c = false := by
          cases hP : P r c
          · rfl
          · rw [hPQ r c hP] at hQ; cases hQ
        rw [h1.cell r c hr hc, hP, Bool.xor_false] at hg
        exact hg
    · rintro (h | ⟨r, c, hr, hc, hPorQ, hg⟩)
      · exact .inl (.inl h)
      · rw [Bool.or_eq_true] at hPorQ
        rcases hPorQ with hP | hQ
        · exact .inl (.inr ⟨r, c, hr, hc, hP, hg⟩)
        · refine .inr ⟨r, c, hr, hc, hQ, ?_⟩
          have hP : P r c = false := by
            cases hP : P r c
            · rfl
            · rw [hPQ r c hP] at hQ; cases hQ
          rw [h1.cell r c hr hc, hP, Bool.xor_false]
          exact hg

/-- The set of cells matters on the screen only. -/
theorem Canvas.Toggles.congr {height width : Nat} {P Q : Nat → Nat → Bool} {d e : Canvas}
    (h : Canvas.Toggles height width P d e) (hPQ : ∀ r c, r < height → c < width → P r c = Q r c) :
    Canvas.Toggles height width Q d e := by
  refine ⟨h.shape, fun r c hr hc => by rw [h.cell r c hr hc, hPQ r c hr hc], ?_⟩
  rw [h.hit]
  constructor
  · rintro (h | ⟨r, c, hr, hc, hP, hg⟩)
    · exact .inl h
    · exact .inr ⟨r, c, hr, hc, by rw [← hPQ r c hr hc]; exact hP, hg⟩
  · rintro (h | ⟨r, c, hr, hc, hP, hg⟩)
    · exact .inl h
    · exact .inr ⟨r, c, hr, hc, by rw [hPQ r c hr hc]; exact hP, hg⟩

theorem Canvas.plot_toggles (height width r c : Nat) (d : Canvas)
    (hd : FrameBuffer.shaped height width d.fb = true) :
    Canvas.Toggles height width (fun r' c' => decide (r' = r ∧ c' = c)) d (d.plot height width r c) := by
  unfold Canvas.plot
  split
  · rename_i h
    refine ⟨FrameBuffer.set_shaped height width r c _ d.fb hd h.1, ?_, ?_⟩
    · intro r' c' _ _
      rw [FrameBuffer.get_set height width r c r' c' _ d.fb hd h.1 h.2]
      by_cases heq : r' = r ∧ c' = c
      · simp [heq]
      · simp [heq]
    · simp only [Bool.or_eq_true, decide_eq_true_eq]
      constructor
      · rintro (h' | h')
        · exact .inl h'
        · exact .inr ⟨r, c, h.1, h.2, ⟨rfl, rfl⟩, h'⟩
      · rintro (h' | ⟨r', c', _, _, ⟨rfl, rfl⟩, h'⟩)
        · exact .inl h'
        · exact .inr h'
  · rename_i h
    refine (Canvas.Toggles.refl height width d hd).congr ?_
    intro r' c' hr hc
    have : ¬ (r' = r ∧ c' = c) := by rintro ⟨rfl, rfl⟩; exact h ⟨hr, hc⟩
    simp [this]

/-- One sprite row draws the cells under its set bits. -/
theorem Canvas.plotBits_toggles (height width r px : Nat) (b : Byte) (js : List Nat) (hjs : js.Nodup) (d : Canvas)
    (hd : FrameBuffer.shaped height width d.fb = true) :
    Canvas.Toggles height width
      (fun r' c' => decide (r' = r ∧ ∃ j ∈ js, c' = px + j ∧ b.getLsbD (7 - j) = true)) d
      (Canvas.plotBits height width r px b js d) := by
  induction js generalizing d with
  | nil => simpa [Canvas.plotBits] using Canvas.Toggles.refl height width d hd
  | cons j js ih =>
    rw [List.nodup_cons] at hjs
    rw [Canvas.plotBits]
    by_cases hb : b.getLsbD (7 - j) = true
    · rw [if_pos hb]
      have h1 := Canvas.plot_toggles height width r (px + j) d hd
      refine ((h1.trans (ih hjs.2 _ h1.shape) ?_).congr ?_)
      · intro r' c' h
        simp only [decide_eq_true_eq, decide_eq_false_iff_not] at h ⊢
        rintro ⟨-, k, hk, hck, -⟩
        exact hjs.1 (by have : j = k := by omega
                        rw [this]; exact hk)
      · intro r' c' _ _
        rw [← Bool.decide_or, decide_eq_decide]
        constructor
        · rintro (⟨h, h'⟩ | ⟨h, k, hk, h'⟩)
          · exact ⟨h, j, by simp, h', hb⟩
          · exact ⟨h, k, by simp [hk], h'⟩
        · rintro ⟨h, k, hk, h'⟩
          rcases List.mem_cons.1 hk with rfl | hk
          · exact .inl ⟨h, h'.1⟩
          · exact .inr ⟨h, k, hk, h'⟩
    · rw [if_neg hb]
      refine (ih hjs.2 d hd).congr ?_
      intro r' c' _ _
      rw [decide_eq_decide]
      constructor
      · rintro ⟨h, k, hk, h'⟩
        exact ⟨h, k, by simp [hk], h'⟩
      · rintro ⟨h, k, hk, h'⟩
        rcases List.mem_cons.1 hk with rfl | hk
        · exact absurd h'.2 hb
        · exact ⟨h, k, hk, h'⟩

/-- A sprite draws the cells under the set bits of its rows, the first row at `r`. -/
theorem Canvas.plotRows_toggles (height width px : Nat) (bs : List Byte) (r : Nat) (d : Canvas)
    (hd : FrameBuffer.shaped height width d.fb = true) :
    Canvas.Toggles height width
      (fun r' c' => decide (r ≤ r' ∧ r' < r + bs.length ∧ px ≤ c' ∧ c' < px + 8) &&
        (bs.getD (r' - r) 0).getLsbD (7 - (c' - px))) d
      (Canvas.plotRows height width px r bs d) := by
  induction bs generalizing r d with
  | nil =>
    refine (Canvas.Toggles.refl height width d hd).congr ?_
    intro r' c' _ _
    have : ¬ (r ≤ r' ∧ r' < r + ([] : List Byte).length ∧ px ≤ c' ∧ c' < px + 8) := by
      rw [List.length_nil]; omega
    simp only [this, decide_false, Bool.false_and]
  | cons b bs ih =>
    have h1 := Canvas.plotBits_toggles height width r px b (List.range 8) List.nodup_range d hd
    refine ((h1.trans (ih (r + 1) _ h1.shape) ?_).congr ?_)
    · intro r' c' h
      simp only [decide_eq_true_eq] at h
      have : ¬ (r + 1 ≤ r' ∧ r' < r + 1 + bs.length ∧ px ≤ c' ∧ c' < px + 8) := by omega
      simp only [this, decide_false, Bool.false_and]
    · intro r' c' _ _
      by_cases hr : r' = r
      · subst hr
        have h2 : ¬ (r' + 1 ≤ r' ∧ r' < r' + 1 + bs.length ∧ px ≤ c' ∧ c' < px + 8) := by omega
        by_cases hc : px ≤ c' ∧ c' < px + 8
        · have h3 : r' ≤ r' ∧ r' < r' + (b :: bs).length ∧ px ≤ c' ∧ c' < px + 8 := by
            simp only [List.length_cons]; omega
          have h4 : (∃ j ∈ List.range 8, c' = px + j ∧ b.getLsbD (7 - j) = true) ↔
              b.getLsbD (7 - (c' - px)) = true := by
            constructor
            · rintro ⟨j, -, rfl, h⟩
              simpa using h
            · intro h
              exact ⟨c' - px, by simp; omega, by omega, h⟩
          simp only [h3, true_and, decide_true, Bool.true_and, h4]
          simp
        · have h3 : ¬ (r' ≤ r' ∧ r' < r' + (b :: bs).length ∧ px ≤ c' ∧ c' < px + 8) := by tauto
          have h4 : ¬ ∃ j ∈ List.range 8, c' = px + j ∧ b.getLsbD (7 - j) = true := by
            rintro ⟨j, hj, hcj, -⟩
            rw [List.mem_range] at hj
            exact hc (by omega)
          simp only [h2, h3, h4, and_false, decide_false, Bool.false_and, Bool.or_false]
      · by_cases hin : r + 1 ≤ r' ∧ r' < r + 1 + bs.length ∧ px ≤ c' ∧ c' < px + 8
        · have h3 : r ≤ r' ∧ r' < r + (b :: bs).length ∧ px ≤ c' ∧ c' < px + 8 := by
            simp only [List.length_cons]; omega
          have h5 : r' - r = (r' - (r + 1)) + 1 := by omega
          simp only [hin, h3, hr, false_and, decide_false, Bool.false_or, h5, and_self, decide_true, Bool.true_and]
          simp
        · have h3 : ¬ (r ≤ r' ∧ r' < r + (b :: bs).length ∧ px ≤ c' ∧ c' < px + 8) := by
            simp only [List.length_cons]; omega
          simp only [hin, h3, hr, false_and, decide_false, Bool.false_or, Bool.false_and]

end Sys2Proof.Machine
end

