-- ==== Sys2Proof/Laws/RunLoop.lean ====
section
/-! SUPPORT. What a tick, a key poll, an instruction step and a turn of the run loop can do, said once. -/

namespace Sys2Proof.Machine

variable (s : State)

@[simp] theorem State.tickTimers_v : s.tickTimers.v = s.v := by
  unfold State.tickTimers; dsimp only; repeat' split
  all_goals rfl
@[simp] theorem State.tickTimers_i : s.tickTimers.i = s.i := by
  unfold State.tickTimers; dsimp only; repeat' split
  all_goals rfl
@[simp] theorem State.tickTimers_pc : s.tickTimers.pc = s.pc := by
  unfold State.tickTimers; dsimp only; repeat' split
  all_goals rfl
@[simp] theorem State.tickTimers_stack : s.tickTimers.stack = s.stack := by
  unfold State.tickTimers; dsimp only; repeat' split
  all_goals rfl
@[simp] theorem State.tickTimers_keys : s.tickTimers.keys = s.keys := by
  unfold State.tickTimers; dsimp only; repeat' split
  all_goals rfl
@[simp] theorem State.tickTimers_fb : s.tickTimers.fb = s.fb := by
  unfold State.tickTimers; dsimp only; repeat' split
  all_goals rfl
@[simp] theorem State.tickTimers_mem : s.tickTimers.mem = s.mem := by
  unfold State.tickTimers; dsimp only; repeat' split
  all_goals rfl
@[simp] theorem State.tickTimers_batchLeft : s.tickTimers.batchLeft = s.batchLeft := by
  unfold State.tickTimers; dsimp only; repeat' split
  all_goals rfl
@[simp] theorem State.tickTimers_cfg : s.tickTimers.cfg = s.cfg := by
  unfold State.tickTimers; dsimp only; repeat' split
  all_goals rfl
@[simp] theorem State.tickTimers_byteAt (addr : Nat) : s.tickTimers.byteAt addr = s.byteAt addr := by
  simp [State.byteAt]
@[simp] theorem State.tickTimers_getV (r : Nibble) : s.tickTimers.getV r = s.getV r := by
  simp [State.getV]

@[simp] theorem State.tick_v : s.tick.v = s.v := by
  unfold State.tick; split <;> simp
@[simp] theorem State.tick_i : s.tick.i = s.i := by
  unfold State.tick; split <;> simp
@[simp] theorem State.tick_pc : s.tick.pc = s.pc := by
  unfold State.tick; split <;> simp
@[simp] theorem State.tick_stack : s.tick.stack = s.stack := by
  unfold State.tick; split <;> simp
@[simp] theorem State.tick_keys : s.tick.keys = s.keys := by
  unfold State.tick; split <;> simp
@[simp] theorem State.tick_fb : s.tick.fb = s.fb := by
  unfold State.tick; split <;> simp
@[simp] theorem State.tick_mem : s.tick.mem = s.mem := by
  unfold State.tick; split <;> simp
@[simp] theorem State.tick_batchLeft : s.tick.batchLeft = s.batchLeft := by
  unfold State.tick; split <;> simp
@[simp] theorem State.tick_cfg : s.tick.cfg = s.cfg := by
  unfold State.tick; split <;> simp
@[simp] theorem State.tick_byteAt (addr : Nat) : s.tick.byteAt addr = s.byteAt addr := by
  simp [State.byteAt]
@[simp] theorem State.tick_getV (r : Nibble) : s.tick.getV r = s.getV r := by
  simp [State.getV]

@[simp] theorem State.tickIfDue_v : s.tickIfDue.v = s.v := by
  unfold State.tickIfDue; split <;> simp
@[simp] theorem State.tickIfDue_i : s.tickIfDue.i = s.i := by
  unfold State.tickIfDue; split <;> simp
@[simp] theorem State.tickIfDue_pc : s.tickIfDue.pc = s.pc := by
  unfold State.tickIfDue; split <;> simp
@[simp] theorem State.tickIfDue_stack : s.tickIfDue.stack = s.stack := by
  unfold State.tickIfDue; split <;> simp
@[simp] theorem State.tickIfDue_keys : s.tickIfDue.keys = s.keys := by
  unfold State.tickIfDue; split <;> simp
@[simp] theorem State.tickIfDue_fb : s.tickIfDue.fb = s.fb := by
  unfold State.tickIfDue; split <;> simp
@[simp] theorem State.tickIfDue_mem : s.tickIfDue.mem = s.mem := by
  unfold State.tickIfDue; split <;> simp
@[simp] theorem State.tickIfDue_cfg : s.tickIfDue.cfg = s.cfg := by
  unfold State.tickIfDue; split <;> simp
@[simp] theorem State.tickIfDue_byteAt (addr : Nat) : s.tickIfDue.byteAt addr = s.byteAt addr := by
  simp [State.byteAt]
@[simp] theorem State.tickIfDue_getV (r : Nibble) : s.tickIfDue.getV r = s.getV r := by
  simp [State.getV]

@[simp] theorem State.keyPoll_v : s.keyPoll.v = s.v := by
  unfold State.keyPoll; repeat' split
  all_goals rfl
@[simp] theorem State.keyPoll_i : s.keyPoll.i = s.i := by
  unfold State.keyPoll; repeat' split
  all_goals rfl
@[simp] theorem State.keyPoll_pc : s.keyPoll.pc = s.pc := by
  unfold State.keyPoll; repeat' split
  all_goals rfl
@[simp] theorem State.keyPoll_stack : s.keyPoll.stack = s.stack := by
  unfold State.keyPoll; repeat' split
  all_goals rfl
@[simp] theorem State.keyPoll_dt : s.keyPoll.dt = s.dt := by
  unfold State.keyPoll; repeat' split
  all_goals rfl
@[simp] theorem State.keyPoll_st : s.keyPoll.st = s.st := by
  unfold State.keyPoll; repeat' split
  all_goals rfl
@[simp] theorem State.keyPoll_fb : s.keyPoll.fb = s.fb := by
  unfold State.keyPoll; repeat' split
  all_goals rfl
@[simp] theorem State.keyPoll_mem : s.keyPoll.mem = s.mem := by
  unfold State.keyPoll; repeat' split
  all_goals rfl
@[simp] theorem State.keyPoll_batchLeft : s.keyPoll.batchLeft = s.batchLeft := by
  unfold State.keyPoll; repeat' split
  all_goals rfl
@[simp] theorem State.keyPoll_cfg : s.keyPoll.cfg = s.cfg := by
  unfold State.keyPoll; repeat' split
  all_goals rfl
@[simp] theorem State.keyPoll_byteAt (addr : Nat) : s.keyPoll.byteAt addr = s.byteAt addr := by
  simp [State.byteAt]
@[simp] theorem State.keyPoll_getV (r : Nibble) : s.keyPoll.getV r = s.getV r := by
  simp [State.getV]

@[simp] theorem State.atFetch_v : s.atFetch.v = s.v := by simp [State.atFetch]
@[simp] theorem State.atFetch_i : s.atFetch.i = s.i := by simp [State.atFetch]
@[simp] theorem State.atFetch_pc : s.atFetch.pc = s.pc := by simp [State.atFetch]
@[simp] theorem State.atFetch_stack : s.atFetch.stack = s.stack := by simp [State.atFetch]
@[simp] theorem State.atFetch_fb : s.atFetch.fb = s.fb := by simp [State.atFetch]
@[simp] theorem State.atFetch_mem : s.atFetch.mem = s.mem := by simp [State.atFetch]
@[simp] theorem State.atFetch_cfg : s.atFetch.cfg = s.cfg := by simp [State.atFetch]
@[simp] theorem State.atFetch_byteAt (addr : Nat) : s.atFetch.byteAt addr = s.byteAt addr := by simp [State.atFetch]
@[simp] theorem State.atFetch_getV (r : Nibble) : s.atFetch.getV r = s.getV r := by simp [State.atFetch]

theorem State.atFetch_halt (h : s.reachesFetch) : s.atFetch.halt = .running := h.2.2

/-- A running machine's key poll uses up one answer, whatever it is (R165). -/
theorem State.keyPoll_env (h : s.halt = .running) : s.keyPoll.env = s.env.afterKeyReply := by
  unfold State.keyPoll
  rw [if_pos h]
  split <;> rfl

/-- Everything a key poll of a running machine can do (R165). -/
theorem State.keyPoll_cases (h : s.halt = .running) :
    (s.nextKeyReply = .noEvent ∧ s.keyPoll = s.takeKeyReply) ∨
    (∃ k p, s.nextKeyReply = .event k p ∧ s.keyPoll = s.takeKeyReply.setKey k p) ∨
    (s.nextKeyReply = .error ∧ s.keyPoll = s.takeKeyReply.raise (.ioError .getKey)) := by
  unfold State.keyPoll
  rw [if_pos h]
  cases hr : s.nextKeyReply with
  | noEvent => exact .inl ⟨rfl, rfl⟩
  | event k p => exact .inr (.inl ⟨k, p, rfl, rfl⟩)
  | error => exact .inr (.inr ⟨rfl, rfl⟩)

/-- The key poll of a state made ready for a fetch does not fail (log 15). -/
theorem State.placeNext_nextKeyReply (bytes : List Byte) : (s.placeNext bytes).nextKeyReply ≠ .error := by
  unfold State.nextKeyReply State.placeNext Env.quietPoll
  dsimp only
  split <;> simp

/-- A halted machine has no tick (R150). -/
theorem State.tick_halted (h : s.halt ≠ .running) : s.tick = s := by simp [State.tick, h]

/-- A halted machine has no key poll (R150). -/
theorem State.keyPoll_halted (h : s.halt ≠ .running) : s.keyPoll = s := by simp [State.keyPoll, h]

/-- What a tick does to the delay timer (R162). -/
theorem State.tick_dt (h : s.halt = .running) : s.tick.dt = if s.dt = 0 then 0 else s.dt - 1 := by
  unfold State.tick State.tickTimers
  by_cases hd : s.dt = 0 <;> simp only [h, hd, if_true, if_false] <;> repeat' split
  all_goals simp_all

/-- What a tick does to the sound timer (R162). -/
theorem State.tick_st (h : s.halt = .running) : s.tick.st = if s.st = 0 then 0 else s.st - 1 := by
  unfold State.tick State.tickTimers
  by_cases hd : s.dt = 0 <;> simp only [h, hd, if_true, if_false] <;> repeat' split
  all_goals simp_all

theorem decode_error (w : Word) (f : DecodeFailure) (h : decode w = .error f) : f = .illegalWord w := by
  unfold decode decodeGroup0 decodeGroup8 decodeGroupE decodeGroupF at h
  repeat' split at h
  all_goals first
    | cases h; done
    | (cases h; rfl)

/-- An instruction step either cannot fetch, or meets an illegal word, or runs the handler (40 R80, 60 R156). -/
theorem instructionStep_cases :
    (4094 < s.pc.toNat ∧ instructionStep s = .next (s.raise (.addressFault .fetch s.pc.toNat))) ∨
    (s.pc.toNat ≤ 4094 ∧ ∃ w, w = wordOfBytes (s.byteAt s.pc.toNat) (s.byteAt (s.pc.toNat + 1)) ∧
      ((decode w = .error (.illegalWord w) ∧ instructionStep s = .next (s.advancePc.raise (.decodeError w))) ∨
        ∃ i, decode w = .ok i ∧ instructionStep s = exec i s.advancePc)) := by
  by_cases h : s.pc.toNat ≤ 4094
  · refine .inr ⟨h, _, rfl, ?_⟩
    unfold instructionStep
    rw [State.fetchWord_ok s h]
    cases hd : decode (wordOfBytes (s.byteAt s.pc.toNat) (s.byteAt (s.pc.toNat + 1))) with
    | error f => exact .inl ⟨by rw [decode_error _ f hd], by simp [hd]⟩
    | ok i => exact .inr ⟨i, rfl, by simp [hd]⟩
  · refine .inl ⟨by omega, ?_⟩
    unfold instructionStep
    rw [State.fetchWord_error s (by omega)]

/-- Everything a step can do: the tick halts, or the key poll halts, or an instruction step is made (R166). -/
theorem step_cases :
    (∃ f, s.halt = .halted f ∧ step s = .fault f) ∨
    (s.halt = .running ∧ s.tickIfDue.halt ≠ .running ∧ step s = .next s.tickIfDue) ∨
    (s.halt = .running ∧ s.tickIfDue.halt = .running ∧ s.tickIfDue.keyPoll.halt ≠ .running ∧
      step s = .next s.tickIfDue.keyPoll) ∨
    (s.reachesFetch ∧ step s = instructionStep s.atFetch) := by
  unfold step loopTurn State.reachesFetch State.thenIfRunning
  cases h1 : s.halt with
  | halted f => simp
  | running =>
    cases h2 : s.tickIfDue.halt with
    | halted f => simp
    | running => cases h3 : s.tickIfDue.keyPoll.halt <;> simp [h3, State.atFetch]

/-- Every meaning answers a next state; a fault is a next state whose HALT holds it (60_exceptions.md R150). -/
theorem exec_next (i : Instr) : ∃ t, exec i s = .next t := by
  cases i <;> simp only [exec, execReturn, execJump, execCall, execSkipEqImm, execSkipNeqImm, execSkipEqReg,
    execSkipNeqReg, execJumpOffset, execLoadImm, execAddImm, execMove, execOr, execAnd, execXor, execAddReg, execSubXY,
    execShiftRight, execSubYX, execShiftLeft, execRandom, execLoadIndex, execAddIndex, execLoadFontAddr, execStoreBCD,
    execStoreRegisters, execLoadRegisters, execClear, execDraw, execSkipKeyDown, execSkipKeyUp, execWaitKey,
    execGetDelay, execSetDelay, execSetSound, State.withRange] <;> repeat' split
  all_goals exact ⟨_, rfl⟩

/-- An instruction step answers a next state. -/
theorem instructionStep_next : ∃ t, instructionStep s = .next t := by
  rcases instructionStep_cases s with ⟨-, h⟩ | ⟨-, w, -, ⟨-, h⟩ | ⟨i, -, h⟩⟩
  · exact ⟨_, h⟩
  · exact ⟨_, h⟩
  · rw [h]; exact exec_next _ i

/-- A step is never refused, and it is a fault exactly when the machine is halted, by that fault (R150). -/
theorem step_fault_or_next : (∃ f, s.halt = .halted f ∧ step s = .fault f) ∨ (s.halt = .running ∧ ∃ t, step s = .next t) := by
  rcases step_cases s with h | ⟨h, -, h'⟩ | ⟨h, -, -, h'⟩ | ⟨h, h'⟩
  · exact .inl h
  · exact .inr ⟨h, _, h'⟩
  · exact .inr ⟨h, _, h'⟩
  · rw [h']; exact .inr ⟨h.1, instructionStep_next _⟩

end Sys2Proof.Machine
end

