-- ==== Sys2Proof/Tests/Slice0.lean ====
section
/-! SUPPORT. The model's own tests: WellFormed, the decoder on words written out from 30_encoding.md R65, one-step
vectors of 95_test_vectors.md (named by its row), and a witness for the hypotheses of each obligation that has any. -/

namespace Sys2Proof.Tests

open Sys2Proof.Machine

/-! ## Helpers -/

/-- The conventions of 95_test_vectors.md section 0: the boundary answers ok, and `get_key` answers none. -/
def quiet : Env := { Env.fresh with replies := [.ok, .ok], keyReplies := [.noEvent, .noEvent] }

/-- The conventions of section 0: a fresh machine. -/
def fresh : State := State.initial Config.customary quiet

/-- `fresh` with `legacy` true. -/
def freshLegacy : State := State.initial { Config.customary with legacy := true } quiet

/-- `fresh` with a boundary that answers error. -/
def failing : State := State.initial Config.customary { quiet with replies := [.error] }

/-- `fresh` with one answer of `get_key`. -/
def asked (r : KeyReply) : State := { fresh with env := { fresh.env with keyReplies := [r] } }

/-- One step with the word `w` placed at PC, seen through `f`; none unless it is a next state. -/
def after {α : Type} (s : State) (w : Nat) (f : State → α) : Option α :=
  match step (s.withFetchWord 16 w) with
  | .next t => some (f t)
  | .fault _ => none
  | .refused _ => none

/-- The registers 1 and F. -/
def v1f (t : State) : Byte × Byte := (t.getV 1, t.getV 0xF)

/-- The memory bytes at `a` and the two after it. -/
def three (a : Nat) (t : State) : List Byte := t.bytesFrom a 3

/-! ## WellFormed (R69) -/

theorem test_wellFormed_refuses_overlap : Instr.wellFormed (.jumpOffset 0x208 3) = false := by decide

theorem test_wellFormed_accepts_overlap : Instr.wellFormed (.jumpOffset 0x208 2) = true := by decide

/-! ## Decode: every constructor's word, written out bit by bit from the patterns of R65 -/

theorem test_decode_exact : decode 0b0000000011100000 = .ok .clear ∧ decode 0b0000000011101110 = .ok .ret := by decide

theorem test_decode_jumps : decode 0b0001111000000101 = .ok (.jump 0xE05) ∧
    decode 0b0010101010111100 = .ok (.call 0xABC) ∧ decode 0b1010000100100011 = .ok (.loadIndex 0x123) ∧
    decode 0b1011001101000101 = .ok (.jumpOffset 0x345 0x3) := by decide

theorem test_decode_immediates : decode 0b0011101001000010 = .ok (.skipEqImm 0xA 0x42) ∧
    decode 0b0100000111111110 = .ok (.skipNeqImm 0x1 0xFE) ∧ decode 0b0110111110000001 = .ok (.loadImm 0xF 0x81) ∧
    decode 0b0111001000010000 = .ok (.addImm 0x2 0x10) ∧ decode 0b1100011111110000 = .ok (.random 0x7 0xF0) := by decide

theorem test_decode_register_skips : decode 0b0101000100100000 = .ok (.skipEqReg 0x1 0x2) ∧
    decode 0b1001101010110000 = .ok (.skipNeqReg 0xA 0xB) := by decide

theorem test_decode_logic : decode 0b1000101010110000 = .ok (.move 0xA 0xB) ∧
    decode 0b1000101010110001 = .ok (.or 0xA 0xB) ∧ decode 0b1000101010110010 = .ok (.and 0xA 0xB) ∧
    decode 0b1000101010110011 = .ok (.xor 0xA 0xB) := by decide

theorem test_decode_arithmetic : decode 0b1000101010110100 = .ok (.addReg 0xA 0xB) ∧
    decode 0b1000101010110101 = .ok (.subXY 0xA 0xB) ∧ decode 0b1000101010110110 = .ok (.shiftRight 0xA 0xB) ∧
    decode 0b1000101010110111 = .ok (.subYX 0xA 0xB) ∧ decode 0b1000101010111110 = .ok (.shiftLeft 0xA 0xB) := by decide

theorem test_decode_draw_and_keys : decode 0b1101000100101111 = .ok (.draw 0x1 0x2 0xF) ∧
    decode 0b1110010010011110 = .ok (.skipKeyDown 0x4) ∧ decode 0b1110010010100001 = .ok (.skipKeyUp 0x4) ∧
    decode 0b1111001100001010 = .ok (.waitKey 0x3) := by decide

theorem test_decode_timers_and_memory : decode 0b1111000100000111 = .ok (.getDelay 0x1) ∧
    decode 0b1111001000010101 = .ok (.setDelay 0x2) ∧ decode 0b1111001100011000 = .ok (.setSound 0x3) ∧
    decode 0b1111010000011110 = .ok (.addIndex 0x4) ∧ decode 0b1111010100101001 = .ok (.loadFontAddr 0x5) := by decide

theorem test_decode_ranges : decode 0b1111011000110011 = .ok (.storeBCD 0x6) ∧
    decode 0b1111011101010101 = .ok (.storeRegisters 0x7) ∧ decode 0b1111100001100101 = .ok (.loadRegisters 0x8) := by decide

/-- Section 2.1: neighbours of legal words are illegal. -/
theorem test_decode_illegal_low : decode 0x0000 = .error (.illegalWord 0x0000) ∧
    decode 0x01E0 = .error (.illegalWord 0x01E0) ∧ decode 0x5121 = .error (.illegalWord 0x5121) := by decide
theorem test_decode_illegal_high : decode 0x8AB8 = .error (.illegalWord 0x8AB8) ∧
    decode 0x9AB1 = .error (.illegalWord 0x9AB1) ∧ decode 0xE19F = .error (.illegalWord 0xE19F) ∧
    decode 0xF075 = .error (.illegalWord 0xF075) := by decide

theorem test_decode_truncated : decodeBytes [0x00] = .error .truncated := by decide

/-! ## One step: control flow (section 2.2) -/

theorem test_C3_jump_odd : after fresh 0x1001 State.pc = some 0x001 := by decide
theorem test_C4_call : after fresh 0x2210 (fun t => (t.pc, t.stack)) = some (0x210, [0x202]) := by decide
theorem test_C5_return : after { fresh with stack := [0x300, 0x206] } 0x00EE (fun t => (t.pc, t.stack)) =
    some (0x206, [0x300]) := by decide
theorem test_C6_return_underflow : after fresh 0x00EE (fun t => (t.pc, t.halt)) =
    some (0x202, .halted .stackUnderflow) := by decide
theorem test_C7_skipEqImm : after (fresh.setV 0 0x42) 0x3042 State.pc = some 0x204 := by decide
theorem test_C21_skipEqImm_top : after (fresh.setPc 4094) 0x3000 State.pc = some 4098 := by decide
theorem test_C9_skipNeqImm : after (fresh.setV 0 0x42) 0x4042 State.pc = some 0x202 := by decide
theorem test_C12_skipEqReg : after ((fresh.setV 0 7).setV 1 8) 0x5010 State.pc = some 0x202 := by decide
theorem test_C15_skipNeqReg : after ((fresh.setV 0 7).setV 1 8) 0x9010 State.pc = some 0x204 := by decide
theorem test_C17_jumpOffset : after ((fresh.setV 0 4).setV 2 6) 0xB208 State.pc = some 0x20C := by decide
theorem test_C19_jumpOffset_legacy : after (freshLegacy.setV 0xF 0xFF) 0xBFFF State.pc = some 0x10FE := by decide

/-- X8: the fetch's bound comes before decoding. -/
theorem test_X8_fetch_bound : (match step (fresh.setPc 4095) with
    | .next t => some (t.pc, t.halt)
    | .fault _ => none
    | .refused _ => none) = some (4095, .halted (.addressFault .fetch 4095)) := by decide

/-- X2: the step from reset fetches 0x0000. -/
theorem test_X2_reset_halts : after State.reset 0x0000 (fun t => (t.pc, t.halt)) =
    some (0x202, .halted (.decodeError 0x0000)) := by decide

/-! ## One step: load, logic, arithmetic (sections 2.3, 2.4) -/

theorem test_A2_loadImm_VF : after (fresh.setV 0xF 1) 0x6F05 (State.getV · 0xF) = some 5 := by decide
theorem test_A3_addImm_wraps : after ((fresh.setV 1 0xFF).setV 0xF 9) 0x7101 v1f = some (0, 9) := by decide
theorem test_A7_move : after ((fresh.setV 1 0xCA).setV 2 0x5C) 0x8120 v1f = some (0x5C, 0) := by decide
theorem test_A8_or : after (((fresh.setV 1 0xCA).setV 2 0x5C).setV 0xF 9) 0x8121 v1f = some (0xDE, 9) := by decide
theorem test_A9_and : after (((fresh.setV 1 0xCA).setV 2 0x5C).setV 0xF 9) 0x8122 v1f = some (0x48, 9) := by decide
theorem test_A10_xor : after (((fresh.setV 1 0xCA).setV 2 0x5C).setV 0xF 9) 0x8123 v1f = some (0x96, 9) := by decide
theorem test_A12_addReg_carry : after ((fresh.setV 1 250).setV 2 10) 0x8124 v1f = some (4, 1) := by decide
theorem test_A19_addReg_yF : after ((fresh.setV 1 200).setV 0xF 100) 0x81F4 v1f = some (44, 1) := by decide
theorem test_A21_subXY_borrow : after ((fresh.setV 1 5).setV 2 10) 0x8125 v1f = some (251, 0) := by decide
theorem test_A26_subXY_xF : after ((fresh.setV 0xF 100).setV 2 200) 0x8F25 (State.getV · 0xF) = some 0 := by decide
theorem test_A29_subYX : after ((fresh.setV 1 5).setV 2 10) 0x8127 v1f = some (5, 1) := by decide
theorem test_A30_subYX_equal : after ((fresh.setV 1 7).setV 2 7) 0x8127 v1f = some (0, 0) := by decide
theorem test_shiftRight_legacy : after ((freshLegacy.setV 1 0xAA).setV 2 0x81) 0x8126 v1f = some (0x40, 1) := by decide
theorem test_shiftRight : after ((fresh.setV 1 4).setV 2 0xFF) 0x8126 v1f = some (2, 0) := by decide
theorem test_shiftLeft_legacy : after ((freshLegacy.setV 1 0xAA).setV 2 0x80) 0x812E v1f = some (0x00, 1) := by decide
theorem test_shiftLeft_bit0 : after ((fresh.setV 1 0x03).setV 2 0xFF) 0x812E v1f = some (0x06, 1) := by decide
theorem test_A33_random : after { fresh with env := { fresh.env with randomBytes := [0xA7] } } 0xC10F (State.getV · 1) =
    some 0x07 := by decide

/-! ## One step: index and memory (section 2.5) -/

theorem test_M2_loadIndex : after fresh 0xAFFF State.i = some 0xFFF := by decide
theorem test_M4_addIndex : after (((fresh.setI 0xFFF).setV 1 1).setV 0xF 9) 0xF11E (fun t => (t.i, t.getV 0xF)) =
    some (0x1000, 9) := by decide
theorem test_M6_addIndex_wraps : after ((fresh.setI 0xFFFF).setV 1 0xFF) 0xF11E State.i = some 0x00FE := by decide
theorem test_M10_loadFontAddr : after (fresh.setV 1 0xFF) 0xF129 State.i = some 0x4FB := by decide
theorem test_M12_storeBCD : after ((fresh.setI 0xFFD).setV 0 123) 0xF033 (three 0xFFD) = some [3, 2, 1] := by decide
theorem test_M13_storeBCD_fault : after ((fresh.setI 0xFFE).setV 0 123) 0xF033
    (fun t => (t.halt, t.bytesFrom 0xFFE 2)) = some (.halted (.addressFault .write 0xFFE), [0, 0]) := by decide
theorem test_M14_storeRegisters : after (((fresh.setI 0x400).setV 0 0xAB).setV 1 0xCD) 0xF055 (three 0x400) =
    some [0xAB, 0, 0] := by decide
theorem test_M16_storeRegisters_fault : after (((fresh.setI 0xFFF).setV 0 1).setV 1 2) 0xF155
    (fun t => (t.halt, t.byteAt 0xFFF)) = some (.halted (.addressFault .write 0xFFF), 0) := by decide
theorem test_M19_loadRegisters : after (((fresh.putBytes 0x300 [4, 5, 2]).setI 0x300).setV 3 7) 0xF265
    (fun t => (t.getV 0, t.getV 1, t.getV 2, t.getV 3, t.i)) = some (4, 5, 2, 7, 0x300) := by decide
theorem test_M18_loadRegisters_fault : after (fresh.setI 0xFFF) 0xF165 State.halt =
    some (.halted (.addressFault .read 0xFFF)) := by decide

/-! ## One step: display (section 2.6) -/

/-- Columns 58 to 63 of the last row, and the last two of the first row. -/
def corner (t : State) : List Bool := (List.range 6).map (fun j => t.fb.get 31 (58 + j)) ++ [t.fb.get 0 62, t.fb.get 0 63]

theorem test_G5_draw_clips : after ((((fresh.putBytes 0x300 [0xFF, 0xFF]).setI 0x300).setV 0 60).setV 1 31) 0xD012
    (fun t => (corner t, t.getV 0xF)) =
    some ([false, false, true, true, true, true, false, false], 0) := by decide

theorem test_G8_draw_collides : after (((fresh.putBytes 0x300 [0xC0]).setI 0x300).setFb (fresh.fb.set 0 1 true)) 0xD011
    (fun t => (t.fb.get 0 0, t.fb.get 0 1, t.getV 0xF, t.env.trace.length)) = some (true, false, 1, 1) := by decide

theorem test_G13_clear : after ((fresh.setFb (fresh.fb.set 0 0 true)).setV 0xF 7) 0x00E0
    (fun t => (t.fb.get 0 0, t.getV 0xF, t.env.trace.length)) = some (false, 7, 0) := by decide

/-! ## One step: keys and timers (sections 2.7, 2.8) -/

theorem test_K1_skipKeyDown : after ((fresh.setV 1 5).setKey 5 true) 0xE19E (fun t => (t.pc, t.keys[5])) =
    some (0x204, false) := by decide
theorem test_K5_skipKeyDown_fault : after (fresh.setV 1 16) 0xE19E State.halt =
    some (.halted (.keyIndexFault 16)) := by decide
theorem test_K3_skipKeyUp : after ((fresh.setV 1 5).setKey 5 true) 0xE1A1 (fun t => (t.pc, t.keys[5])) =
    some (0x202, false) := by decide
theorem test_K4_skipKeyUp_skips : after (fresh.setV 1 5) 0xE1A1 State.pc = some 0x204 := by decide
theorem test_K7_waitKey_retries : after fresh 0xF30A State.pc = some 0x200 := by decide
theorem test_K8_waitKey_lowest : after ((fresh.setKey 2 true).setKey 7 true) 0xF30A
    (fun t => (t.getV 3, t.keys[2], t.keys[7], t.pc)) = some (2, false, true, 0x202) := by decide
theorem test_K11_keyPoll : (asked (.event 5 true)).keyPoll.keys[5] = true := by decide
/-- The batch has a step left, so no tick comes before the read. -/
theorem test_T1_getDelay : after { fresh with dt := 0x2A, batchLeft := 1 } 0xF107 (fun t => (t.getV 1, t.dt)) =
    some (0x2A, 0x2A) := by decide
theorem test_T2_setDelay : after (fresh.setV 0 3) 0xF015 State.dt = some 3 := by decide
theorem test_T4_setSound_starts : after (fresh.setV 1 5) 0xF118 (fun t => (t.st, t.env.trace)) =
    some (5, [.startBeep]) := by decide
theorem test_T5_setSound_stops : after { fresh with st := 5, batchLeft := 1 } 0xF118 (fun t => (t.st, t.env.trace)) =
    some (0, []) := by decide
theorem test_T10_tick : ((fun t => (t.dt, t.st, t.env.trace)) ({ fresh with dt := 1, st := 1 } : State).tick) =
    (0, 0, [.endBeep]) := by decide
theorem test_T15_tick_error : ((fun t => (t.dt, t.st, t.halt)) ({ failing with dt := 3, st := 1 } : State).tick) =
    (2, 0, .halted (.ioError .endBeep)) := by decide

/-! ## Construction (70_reset_and_hazards.md R183, R184) -/

theorem test_construct_checks : validConfig { Config.customary with width := 7 } = false ∧
    validConfig { Config.customary with width := 8, height := 1 } = true := by decide

/-! ## Witnesses: for every obligation with hypotheses, a state and operands that meet all of them together, one for
each clause, at the ends of its range -/

theorem witness_DecodeInvertsEncode : Instr.wellFormed (.jumpOffset 0xFFF 0xF) = true := by decide

theorem witness_EncodeInvertsDecode : decode 0xBFFF = .ok (.jumpOffset 0xFFF 0xF) := by decide

theorem witness_DecodePicksTheOneMatchingRow : decode 0x8ABE = .ok (.shiftLeft 0xA 0xB) ∧
    decode 0x0000 = .error (.illegalWord 0x0000) ∧ fresh.fetchWord = .ok 0x0000 := by decide

/-- `fresh` with a word at PC. -/
def placed (w : Nat) : State := fresh.withFetchWord 16 w

theorem witness_FetchRule_halted : (fresh.raise .stackUnderflow).halt = .halted .stackUnderflow := rfl

theorem witness_FetchRule_bound : (fresh.setPc 4095).pc.toNat + 1 > 4095 ∧ (fresh.setPc 4094).pc.toNat + 1 ≤ 4095 := by
  decide

theorem witness_FetchRule_decodes : (placed 0x00E0).pc.toNat + 1 ≤ 4095 ∧
    (0x00E0 : Word).toNat = ((placed 0x00E0).byteAt 0x200).toNat * 256 + ((placed 0x00E0).byteAt 0x201).toNat ∧
    decode 0x00E0 = .ok .clear := by decide

theorem witness_FetchRule_decodes_not : (0x0000 : Word).toNat =
    (fresh.byteAt 0x200).toNat * 256 + (fresh.byteAt 0x201).toNat ∧ decode 0x0000 = .error (.illegalWord 0) := by decide

theorem witness_StepRunsTheDecodedInstruction : (placed 0x6FAB).runs (.loadImm 0xF 0xAB) := by
  unfold State.runs State.reachesFetch; decide

/-- A falling edge of ST at a due tick whose `end_beep` fails. -/
theorem witness_StepRuns_tick_halts : (failing.setSt 1).halt = .running ∧ (failing.setSt 1).tickIfDue.halt ≠ .running := by
  decide

/-- A `get_key` that fails. -/
theorem witness_StepRuns_poll_halts : (asked .error).halt = .running ∧ (asked .error).tickIfDue.halt = .running ∧
    (asked .error).tickIfDue.keyPoll.halt ≠ .running := by decide

/-- K15: the step that would follow a failing poll is not made. -/
theorem test_K15_no_step : (match step (asked .error) with
    | .next t => some (t.pc, t.halt)
    | .fault _ => none
    | .refused _ => none) = some (0x200, .halted (.ioError .getKey)) := by decide

theorem witness_StepRuns_last_address :
    ((fresh.setPc 4094).withFetchWord 16 0x6FAB).runs (.loadImm 0xF 0xAB) := by
  unfold State.runs State.reachesFetch; decide

theorem witness_IllegalWord_illegal : fresh.halt = .running ∧ fresh.pc.toNat ≤ 4094 ∧
    0x0000 = wordOfBytes (fresh.byteAt fresh.pc.toNat) (fresh.byteAt (fresh.pc.toNat + 1)) ∧
    ∀ row ∈ opcodeTable, 0x0000 &&& row.mask ≠ row.bits := by decide

theorem witness_IllegalWord_legal : (placed 0x00EE).halt = .running ∧ (placed 0x00EE).pc.toNat ≤ 4094 ∧
    0x00EE = wordOfBytes ((placed 0x00EE).byteAt 0x200) ((placed 0x00EE).byteAt 0x201) ∧
    ∃ row ∈ opcodeTable, 0x00EE &&& row.mask = row.bits := by decide

theorem witness_HaltedMachineHasNoTransition :
    (fresh.raise (.decodeError 0)).halt = .halted (.decodeError 0) := rfl

/-- Running machines at the ends of R162's ranges: both timers 0, and the falling edge with an answer and an error. -/
theorem witness_TickDecrementsTimers : fresh.halt = .running ∧ fresh.st = 0 ∧ (fresh.setSt 1).halt = .running ∧
    (fresh.setSt 1).nextReply = .ok ∧ (failing.setSt 1).halt = .running ∧ (failing.setSt 1).nextReply = .error := by
  decide

theorem witness_KeyPollMergesOneEvent : (asked .noEvent).halt = .running ∧ (asked .noEvent).nextKeyReply = .noEvent ∧
    (asked (.event 0 true)).nextKeyReply = .event 0 true ∧ (asked (.event 15 false)).nextKeyReply = .event 15 false ∧
    (asked .error).nextKeyReply = .error := by decide

theorem witness_ScheduleOfTicksAndSteps_new_batch :
    ∃ t, step (placed 0x6001) = .next t ∧ t.halt = .running ∧ (placed 0x6001).batchLeft = 0 :=
  ⟨_, rfl, by decide, by decide⟩

/-- In the middle of a batch. -/
def inBatch (w : Nat) : State := { placed w with batchLeft := 2 }

theorem witness_ScheduleOfTicksAndSteps_same_batch :
    ∃ t, step (inBatch 0x6001) = .next t ∧ t.halt = .running ∧ (inBatch 0x6001).batchLeft ≠ 0 :=
  ⟨_, rfl, by decide, by decide⟩

theorem witness_BatchRunsItsSteps :
    ∃ t, 2 ≤ (inBatch 0x1200).batchLeft ∧ core.run 2 (inBatch 0x1200) = .next t ∧ t.halt = .running :=
  ⟨_, by decide, rfl, by decide⟩

theorem witness_EveryStepTakesOneKeyPoll :
    ∃ t, step (asked (.event 5 true)) = .next t ∧ (asked (.event 5 true)).tickIfDue.halt = .running :=
  ⟨_, rfl, by decide⟩

theorem inBatch_runs_loadImm (i : Instr) (h : (inBatch 0x6001).runs i) : i = .loadImm 0 1 := by
  have h' : (Except.ok (.loadImm 0 1) : Except DecodeFailure Instr) = .ok i := h.2.2
  cases h'; rfl

theorem witness_TimersChangeOnlyBetweenBatches : ∃ t, (inBatch 0x6001).batchLeft ≠ 0 ∧
    step (inBatch 0x6001) = .next t ∧ (∀ x, ¬ (inBatch 0x6001).runs (.setDelay x)) ∧
    ∀ x, ¬ (inBatch 0x6001).runs (.setSound x) :=
  ⟨_, by decide, rfl, fun _ h => (nomatch inBatch_runs_loadImm _ h), fun _ h => (nomatch inBatch_runs_loadImm _ h)⟩

theorem witness_ReturnPopsTheLastEntry : ({ fresh with stack := [0x300, 0x206] } : State).stack = [0x300] ++ [0x206] ∧
    fresh.stack = [] := by decide

theorem witness_CallThenReturnResumes :
    ∃ t u : State, exec (.call 0xFFF) fresh = .next t ∧ u.stack = t.stack ∧ u.pc = 0x123 :=
  ⟨_, (fresh.push fresh.pc).setPc 0x123, rfl, rfl, rfl⟩

/-- Both values of `legacy`. -/
theorem witness_Shifts : (0x81 : Byte) = (if (freshLegacy.setV 2 0x81).cfg.legacy then (freshLegacy.setV 2 0x81).getV 2
      else (freshLegacy.setV 2 0x81).getV 1) ∧
    (0x81 : Byte) = (if (fresh.setV 1 0x81).cfg.legacy then (fresh.setV 1 0x81).getV 2 else (fresh.setV 1 0x81).getV 1) := by
  decide

theorem witness_RandomMasksTheNextByte :
    ({ fresh with env := { fresh.env with randomBytes := [0xA7] } } : State).env.randomBytes = 0xA7 :: [] := rfl

theorem witness_FlagIsZeroOrOne : ∃ t, writesFlag (.addReg 0xF 0xF) = true ∧ exec (.addReg 0xF 0xF) fresh = .next t :=
  ⟨_, by decide, rfl⟩

theorem witness_RegistersHaveTheirWriters :
    ∃ t, exec (.loadRegisters 0xE) fresh = .next t ∧ mayWriteV 0xF (.loadRegisters 0xE) = false :=
  ⟨_, rfl, by decide⟩

theorem witness_StoreBCDWritesThreeDigits : (fresh.setI 4093).i.toNat + 2 ≤ 4095 ∧
    (fresh.setI 4094).i.toNat + 2 > 4095 := by decide

/-- The ranges of StoreRegisters and LoadRegisters: the last that fits and the first that does not. -/
theorem witness_RegisterRanges : (fresh.setI 4080).i.toNat + (0xF : Nibble).toNat ≤ 4095 ∧
    (fresh.setI 4081).i.toNat + (0xF : Nibble).toNat > 4095 := by decide

theorem witness_StoreThenLoadRestoresRegisters : ∃ t u : State, (fresh.setI 4095).i.toNat + (0 : Nibble).toNat ≤ 4095 ∧
    exec (.storeRegisters 0) (fresh.setI 4095) = .next t ∧ u.mem = t.mem ∧ u.cfg = t.cfg ∧ u.i = t.i ∧ u.getV 0 = 9 :=
  ⟨_, ((fresh.setI 4095).putBytes 4095 [0]).setV 0 9, by decide, rfl, rfl, rfl, rfl, by decide⟩

/-- Draw at the end of memory, and Draw of no rows with `I` outside it. -/
theorem witness_DrawInvertsExactlyTheSprite :
    FrameBuffer.shaped (fresh.setI 4095).cfg.height (fresh.setI 4095).cfg.width (fresh.setI 4095).fb = true ∧
    (fresh.setI 4095).i.toNat + (1 : Nibble).toNat - 1 ≤ 4095 ∧ (fresh.setI 4095).nextReply = .ok ∧
    ((0 : Nibble) = 0 ∨ (fresh.setI 0xFFFF).i.toNat + (0 : Nibble).toNat - 1 ≤ 4095) := by decide

theorem witness_DrawTwiceRestoresTheGrid :
    ∃ t u, FrameBuffer.shaped fresh.cfg.height fresh.cfg.width fresh.fb = true ∧
      fresh.i.toNat + (1 : Nibble).toNat - 1 ≤ 4095 ∧ (0 : Nibble) ≠ 0xF ∧ (1 : Nibble) ≠ 0xF ∧
      exec (.draw 0 1 1) fresh = .next t ∧ exec (.draw 0 1 1) t = .next u :=
  ⟨_, _, by decide, by decide, by decide, by decide, rfl, rfl⟩

theorem witness_DrawOutsideMemoryFaults : (2 : Nibble) ≠ 0 ∧ (fresh.setI 4095).i.toNat + (2 : Nibble).toNat - 1 > 4095 := by
  decide

theorem witness_KeySkipsConsumeTheFlag : ((fresh.setV 1 15).getV 1).toNat = (15 : Fin 16).val ∧
    (fresh.getV 1).toNat = (0 : Fin 16).val := by decide

theorem witness_KeyIndexAbove15Faults : 15 < ((fresh.setV 1 16).getV 1).toNat := by decide

theorem witness_WaitKeyTakesTheLowestKey : (fresh.setKey 15 true).keys[(15 : Fin 16).val] = true ∧
    (∀ j : Fin 16, j < 15 → (fresh.setKey 15 true).keys[j.val] = false) ∧ ∀ k : Fin 16, fresh.keys[k.val] = false := by
  decide

theorem witness_WaitKeyStepStaysPut_runs : (placed 0xFF0A).runs (.waitKey 0xF) := by
  unfold State.runs State.reachesFetch; decide

theorem witness_WaitKeyStepStaysPut_keys : ∀ k : Fin 16, (placed 0xFF0A).tickIfDue.keyPoll.keys[k.val] = false := by
  decide

theorem witness_SetSoundStartsTheBeepOnARisingEdge : (fresh.setV 1 1).st = 0 ∧ (fresh.setV 1 1).getV 1 ≠ 0 ∧
    ((fresh.setSt 1).st ≠ 0 ∨ (fresh.setSt 1).getV 1 = 0) ∧ (fresh.st ≠ 0 ∨ fresh.getV 1 = 0) := by decide

theorem witness_FailedDrawKeepsItsWrites : ∃ t, fresh.i.toNat + (1 : Nibble).toNat - 1 ≤ 4095 ∧ fresh.nextReply = .ok ∧
    ({ fresh with env := failing.env } : State).nextReply = .error ∧ exec (.draw 0 1 1) fresh = .next t :=
  ⟨_, by decide, by decide, by decide, rfl⟩

theorem witness_OutsideWorldReachesOnlyHaltAndRandom : ∃ t u, exec (.random 1 0xFF) fresh = .next t ∧
    exec (.random 1 0xFF) { fresh with env := { fresh.env with randomBytes := [7] } } = .next u :=
  ⟨_, _, rfl, rfl⟩

/-- The three kinds of instruction in the statement: one that asks for nothing, a Draw, a SetSound that starts the
beep. -/
theorem witness_BoundaryRequestsComeFromTheirInstructions : ∃ t u w, exec .clear fresh = .next t ∧
    exec (.draw 0 0 1) fresh = .next u ∧ exec (.setSound 1) (fresh.setV 1 1) = .next w ∧ w.env.trace = [.startBeep] :=
  ⟨_, _, _, rfl, rfl, rfl, by decide⟩

/-- Whether an instruction run in `s` changes the component `f`. -/
def changes {α : Type} [DecidableEq α] (i : Instr) (s : State) (f : State → α) : Bool :=
  match exec i s with
  | .next t => decide (f t ≠ f s)
  | .fault _ => false
  | .refused _ => false

theorem witness_EachComponentHasItsWriters : changes (.loadIndex 5) fresh State.i = true ∧
    changes (.jump 5) fresh State.pc = true ∧ changes (.call 5) fresh State.stack = true ∧
    changes (.setDelay 1) (fresh.setV 1 5) State.dt = true ∧ changes (.setSound 1) (fresh.setV 1 5) State.st = true ∧
    changes (.waitKey 1) (fresh.setKey 15 true) State.keys = true ∧
    changes (.storeBCD 1) ((fresh.setV 1 5).setI 0x300) State.mem = true := by decide

theorem witness_EachComponent_grid : changes .clear (fresh.setFb (fresh.fb.set 31 63 true)) State.fb = true := by decide

theorem witness_FaultsArePrecise : ∃ t, fresh.halt = .running ∧ exec .ret fresh = .next t ∧
    t.halt = .halted .stackUnderflow ∧ ∀ c, Fault.stackUnderflow ≠ .ioError c :=
  ⟨_, by decide, rfl, by decide, fun _ => nofun⟩

/-- An invariant state whose step jumps to the largest address that PC ever holds. -/
theorem witness_StepKeepsSoundness : ∃ t, ((placed 0xBFFF).setV 0 0xFF).sound = true ∧
    step ((placed 0xBFFF).setV 0 0xFF) = .next t ∧ t.pc = 0x10FE :=
  ⟨_, by decide, rfl, by decide⟩

theorem witness_ConstructedMachineIsSound : ∃ s, construct Config.customary Env.fresh [0x12, 0x00] = .ok s :=
  ⟨_, rfl⟩

/-- The smallest valid configuration. -/
def smallest : Config := { Config.customary with opcodesPerCycle := 1, timerHz := 1, width := 8, height := 1 }

theorem witness_ConstructionGivesTheResetValues : validConfig smallest = true := by decide

theorem witness_ConstructionLoadsTheImage : validConfig smallest = true ∧
    (List.replicate 3584 (0xAB : Byte)).length ≤ 3584 := ⟨by decide, by rw [List.length_replicate]⟩

theorem witness_ConstructionRefuses_configuration : ({ smallest with width := 7 } : Config).width < 8 ∧
    ({ smallest with opcodesPerCycle := 0 } : Config).opcodesPerCycle < 1 ∧
    ({ smallest with timerHz := 0 } : Config).timerHz < 1 ∧ ({ smallest with height := 0 } : Config).height < 1 := by decide

theorem witness_ConstructionRefuses_image : 1 ≤ smallest.opcodesPerCycle ∧ 1 ≤ smallest.timerHz ∧ 8 ≤ smallest.width ∧
    1 ≤ smallest.height ∧ (List.replicate 3585 (0xAB : Byte)).length > 3584 :=
  ⟨by decide, by decide, by decide, by decide, by rw [List.length_replicate]; decide⟩

theorem witness_StoredBytesAreFetchedNext : ∃ t, (fresh.setI 0x200).i.toNat + (1 : Nibble).toNat ≤ 4095 ∧
    (1 : Nibble).toNat = (0 : Nibble).toNat + 1 ∧ (1 : Nibble).toNat ≤ (1 : Nibble).toNat ∧
    exec (.storeRegisters 1) (fresh.setI 0x200) = .next t ∧
    t.pc.toNat = (fresh.setI 0x200).i.toNat + (0 : Nibble).toNat :=
  ⟨_, by decide, by decide, by decide, rfl, by decide⟩

theorem witness_StoredBytes_BCD : ∃ t u, (fresh.setI 0x200).i.toNat + 2 ≤ 4095 ∧
    exec (.storeBCD 1) (fresh.setI 0x200) = .next t ∧ t.pc.toNat = (fresh.setI 0x200).i.toNat ∧
    (fresh.setI 0x1FF).i.toNat + 2 ≤ 4095 ∧ exec (.storeBCD 1) (fresh.setI 0x1FF) = .next u ∧
    u.pc.toNat = (fresh.setI 0x1FF).i.toNat + 1 :=
  ⟨_, _, by decide, rfl, by decide, by decide, rfl, by decide⟩

theorem witness_JumpToItselfSettles_runs : (inBatch 0x1200).runs (.jump 0x200) := by
  unfold State.runs State.reachesFetch; decide

theorem witness_JumpToItselfSettles_rest : (0x200 : Addr12).toNat = (inBatch 0x1200).pc.toNat ∧
    (inBatch 0x1200).batchLeft ≠ 0 ∧ (inBatch 0x1200).nextKeyReply = .noEvent := by decide

theorem witness_ConfigurationNeverChanges : ∃ t, core.run 1 (placed 0x6001) = .next t := ⟨_, rfl⟩

end Sys2Proof.Tests
end

section
/-! PROOFS. The encoding of 30_encoding.md: the decoder is total and picks the one row of the opcode map that matches
(R64). The row of a word's instruction matches the word because the word is the instruction's encoding; no other row
does because the rows exclude each other; and a word that a row matches decodes. -/

namespace Sys2Proof

/-! ## A word is put together from its fields (R61, R62) -/

section
variable {w : Word} {op n : Nibble} {nn : Byte}

theorem formatA_fields (hop : (fieldOp w).toNat = op.toNat) : formatA op (fieldNNN w) = w := by
  obtain rfl := BitVec.eq_of_toNat_eq hop
  exact BitVec.extractLsb'_append_extractLsb' (w := 4) (len := 12)

theorem formatXI_fields (hop : (fieldOp w).toNat = op.toNat) (hnn : fieldNN w = nn) :
    formatXI op (fieldX w) nn = w := by
  obtain rfl := BitVec.eq_of_toNat_eq hop
  subst hnn
  unfold formatXI fieldOp fieldX
  rw [BitVec.extractLsb'_append_extractLsb'_eq_extractLsb' (by rfl)]
  exact BitVec.extractLsb'_append_extractLsb' (w := 8) (len := 8)

theorem formatXY_fields (hop : (fieldOp w).toNat = op.toNat) (hn : fieldN w = n) :
    formatXY op (fieldX w) (fieldY w) n = w := by
  obtain rfl := BitVec.eq_of_toNat_eq hop
  subst hn
  unfold formatXY fieldOp fieldX fieldY
  rw [BitVec.extractLsb'_append_extractLsb'_eq_extractLsb' (by rfl),
    BitVec.extractLsb'_append_extractLsb'_eq_extractLsb' (by rfl)]
  exact BitVec.extractLsb'_append_extractLsb' (w := 12) (len := 4)

/-- JumpOffset's register number is the top nibble of its address (R69). -/
theorem fieldX_eq_extract_fieldNNN (w : Word) : fieldX w = (fieldNNN w).extractLsb' 8 4 :=
  (BitVec.extractLsb'_extractLsb'_of_le (by decide)).symm

end

/-! ## What decodes is well formed, and its word is the one decoded -/

section
variable {w : Word} {i : Instr}

theorem decodeGroup0_ok (h : decodeGroup0 w = .ok i) : i.wellFormed = true ∧ encode i = w := by
  unfold decodeGroup0 at h
  split_ifs at h with hw hw <;> cases h <;> exact ⟨rfl, hw.symm⟩

theorem decodeGroup8_ok (hop : (fieldOp w).toNat = 0x8) (h : decodeGroup8 w = .ok i) :
    i.wellFormed = true ∧ encode i = w := by
  unfold decodeGroup8 at h
  split at h <;> cases h
  all_goals next hn => exact ⟨rfl, formatXY_fields hop (BitVec.eq_of_toNat_eq hn)⟩

theorem decodeGroupE_ok (hop : (fieldOp w).toNat = 0xE) (h : decodeGroupE w = .ok i) :
    i.wellFormed = true ∧ encode i = w := by
  unfold decodeGroupE at h
  split_ifs at h with hnn hnn <;> cases h <;> exact ⟨rfl, formatXI_fields hop hnn⟩

theorem decodeGroupF_ok (hop : (fieldOp w).toNat = 0xF) (h : decodeGroupF w = .ok i) :
    i.wellFormed = true ∧ encode i = w := by
  unfold decodeGroupF at h
  split_ifs at h with hnn hnn hnn hnn hnn hnn hnn hnn hnn <;> cases h <;> exact ⟨rfl, formatXI_fields hop hnn⟩

theorem decode_ok (h : decode w = .ok i) : i.wellFormed = true ∧ encode i = w := by
  unfold decode at h
  split at h
  · exact decodeGroup0_ok h
  · next hop => cases h; exact ⟨rfl, formatA_fields hop⟩
  · next hop => cases h; exact ⟨rfl, formatA_fields hop⟩
  · next hop => cases h; exact ⟨rfl, formatXI_fields hop rfl⟩
  · next hop => cases h; exact ⟨rfl, formatXI_fields hop rfl⟩
  · next hop => split_ifs at h with hn; cases h; exact ⟨rfl, formatXY_fields hop hn⟩
  · next hop => cases h; exact ⟨rfl, formatXI_fields hop rfl⟩
  · next hop => cases h; exact ⟨rfl, formatXI_fields hop rfl⟩
  · next hop => exact decodeGroup8_ok hop h
  · next hop => split_ifs at h with hn; cases h; exact ⟨rfl, formatXY_fields hop hn⟩
  · next hop => cases h; exact ⟨rfl, formatA_fields hop⟩
  · next hop => cases h; exact ⟨beq_iff_eq.2 (fieldX_eq_extract_fieldNNN w), formatA_fields hop⟩
  · next hop => cases h; exact ⟨rfl, formatXI_fields hop rfl⟩
  · next hop => cases h; exact ⟨rfl, formatXY_fields hop rfl⟩
  · next hop => exact decodeGroupE_ok hop h
  · have hop : (fieldOp w).toNat = 0xF := by have := (fieldOp w).isLt; grind
    exact decodeGroupF_ok hop h

end

/-! ## The opcode map: every instruction fits its row, and no word matches two rows (R65) -/

/-- Every instruction's row is in the opcode map, and its word matches it. -/
theorem opcodeFit : ∀ i : Instr, Laws.OpcodeFit.Statement i
  | .clear => Laws.OpcodeFit.clear
  | .ret => Laws.OpcodeFit.ret
  | .jump nnn => Laws.OpcodeFit.jump nnn
  | .call nnn => Laws.OpcodeFit.call nnn
  | .skipEqImm x nn => Laws.OpcodeFit.skipEqImm x nn
  | .skipNeqImm x nn => Laws.OpcodeFit.skipNeqImm x nn
  | .skipEqReg x y => Laws.OpcodeFit.skipEqReg x y
  | .loadImm x nn => Laws.OpcodeFit.loadImm x nn
  | .addImm x nn => Laws.OpcodeFit.addImm x nn
  | .move x y => Laws.OpcodeFit.move x y
  | .or x y => Laws.OpcodeFit.or x y
  | .and x y => Laws.OpcodeFit.and x y
  | .xor x y => Laws.OpcodeFit.xor x y
  | .addReg x y => Laws.OpcodeFit.addReg x y
  | .subXY x y => Laws.OpcodeFit.subXY x y
  | .shiftRight x y => Laws.OpcodeFit.shiftRight x y
  | .subYX x y => Laws.OpcodeFit.subYX x y
  | .shiftLeft x y => Laws.OpcodeFit.shiftLeft x y
  | .skipNeqReg x y => Laws.OpcodeFit.skipNeqReg x y
  | .loadIndex nnn => Laws.OpcodeFit.loadIndex nnn
  | .jumpOffset nnn x => Laws.OpcodeFit.jumpOffset nnn x
  | .random x nn => Laws.OpcodeFit.random x nn
  | .draw x y n => Laws.OpcodeFit.draw x y n
  | .skipKeyDown x => Laws.OpcodeFit.skipKeyDown x
  | .skipKeyUp x => Laws.OpcodeFit.skipKeyUp x
  | .getDelay x => Laws.OpcodeFit.getDelay x
  | .waitKey x => Laws.OpcodeFit.waitKey x
  | .setDelay x => Laws.OpcodeFit.setDelay x
  | .setSound x => Laws.OpcodeFit.setSound x
  | .addIndex x => Laws.OpcodeFit.addIndex x
  | .loadFontAddr x => Laws.OpcodeFit.loadFontAddr x
  | .storeBCD x => Laws.OpcodeFit.storeBCD x
  | .storeRegisters x => Laws.OpcodeFit.storeRegisters x
  | .loadRegisters x => Laws.OpcodeFit.loadRegisters x

/-- Two rows exclude each other when their fixed bits differ at a bit that both masks fix. -/
def OpcodeRow.Excludes (r r' : OpcodeRow) : Prop := r.bits &&& r'.mask ≠ r'.bits &&& r.mask

theorem opcodeTable_pairwise_excludes : opcodeTable.Pairwise OpcodeRow.Excludes := by
  unfold OpcodeRow.Excludes
  decide

theorem OpcodeRow.Excludes.not_both_match {r r' : OpcodeRow} (h : r.Excludes r') {w : Word}
    (hr : w &&& r.mask = r.bits) : w &&& r'.mask ≠ r'.bits := fun hr' =>
  h (by rw [← hr, ← hr', BitVec.and_assoc, BitVec.and_assoc, BitVec.and_comm r.mask])

theorem opcodeTable_match_unique {w : Word} {r r' : OpcodeRow} (hmem : r ∈ opcodeTable) (hmem' : r' ∈ opcodeTable)
    (hr : w &&& r.mask = r.bits) (hr' : w &&& r'.mask = r'.bits) : r = r' := by
  by_contra hne
  have : Std.Symm OpcodeRow.Excludes := ⟨fun _ _ h => Ne.symm h⟩
  exact (opcodeTable_pairwise_excludes.forall hmem hmem' hne).not_both_match hr hr'

/-- A row of the opcode map matches the word of an instruction exactly when it is the instruction's row. -/
theorem encode_matches_iff (i : Instr) {row : OpcodeRow} (hmem : row ∈ opcodeTable) :
    encode i &&& row.mask = row.bits ↔ row = i.row := by
  obtain ⟨hrow, hfit⟩ := opcodeFit i
  exact ⟨fun h => opcodeTable_match_unique hmem hrow h hfit, fun h => h ▸ hfit⟩

theorem exists_row_of_mem_opcodeTable {row : OpcodeRow} (hmem : row ∈ opcodeTable) : ∃ i : Instr, row = i.row := by
  simp only [opcodeTable, List.cons_append, List.nil_append, List.mem_cons, List.not_mem_nil, or_false] at hmem
  repeat
    obtain h | hmem := hmem
    · exact ⟨_, h⟩
  exact ⟨_, hmem⟩

/-! ## A word that a row matches decodes -/

section
variable {w mask bits : Word}

theorem fieldOp_of_match (hmask : fieldOp mask = 0xF) (h : w &&& mask = bits) : fieldOp w = fieldOp bits := by
  rw [← h, fieldOp, fieldOp, BitVec.extractLsb'_and]
  exact ((congrArg _ hmask).trans (nibble_and_ones _)).symm

theorem fieldN_of_match (hmask : fieldN mask = 0xF) (h : w &&& mask = bits) : fieldN w = fieldN bits := by
  rw [← h, fieldN, fieldN, BitVec.extractLsb'_and]
  exact ((congrArg _ hmask).trans (nibble_and_ones _)).symm

theorem fieldNN_of_match (hmask : fieldNN mask = 0xFF) (h : w &&& mask = bits) : fieldNN w = fieldNN bits := by
  rw [← h, fieldNN, fieldNN, BitVec.extractLsb'_and]
  exact ((congrArg _ hmask).trans (byte_and_ones _)).symm

end

/-- The mask of a row fixes every field that `decode` looks at to select the row's variant. -/
theorem decode_ok_of_match {w : Word} (i : Instr) (h : w &&& i.row.mask = i.row.bits) : ∃ j, decode w = .ok j := by
  cases i <;> simp only [Instr.row] at h
  case clear | ret =>
    obtain rfl : w = _ := BitVec.and_allOnes.symm.trans h
    exact ⟨_, rfl⟩
  case jump | call | skipEqImm | skipNeqImm | loadImm | addImm | loadIndex | jumpOffset | random | draw =>
    rw [decode, fieldOp_of_match (by decide) h]
    exact ⟨_, rfl⟩
  case skipEqReg | skipNeqReg =>
    rw [decode, fieldOp_of_match (by decide) h, fieldN_of_match (by decide) h]
    exact ⟨_, rfl⟩
  case move | or | and | xor | addReg | subXY | shiftRight | subYX | shiftLeft =>
    rw [decode, fieldOp_of_match (by decide) h, decodeGroup8, fieldN_of_match (by decide) h]
    exact ⟨_, rfl⟩
  case skipKeyDown | skipKeyUp =>
    rw [decode, fieldOp_of_match (by decide) h, decodeGroupE, fieldNN_of_match (by decide) h]
    exact ⟨_, rfl⟩
  all_goals
    rw [decode, fieldOp_of_match (by decide) h, decodeGroupF, fieldNN_of_match (by decide) h]
    exact ⟨_, rfl⟩

theorem no_row_matches_of_decode_error {w : Word} {f : DecodeFailure} (h : decode w = .error f) :
    ∀ row ∈ opcodeTable, w &&& row.mask ≠ row.bits := by
  intro row hmem hmatch
  obtain ⟨i, rfl⟩ := exists_row_of_mem_opcodeTable hmem
  obtain ⟨j, hj⟩ := decode_ok_of_match i hmatch
  exact absurd (h.symm.trans hj) nofun

/-- A step that fetches a word that does not decode advances PC and raises DecodeError (R64, 40 R80). -/
theorem Machine.instructionStep_of_decode_error {s : Machine.State} {w : Word} {f : DecodeFailure}
    (hfetch : s.fetchWord = .ok w) (h : decode w = .error f) :
    Machine.instructionStep s = .next (s.advancePc.raise (.decodeError w)) := by
  simp [Machine.instructionStep, hfetch, h]

/-- Settles O3: the split is on what `decode` answers, and the row is pinned by the word being its encoding. -/
theorem decodePicksTheOneMatchingRow : Obligations.DecodePicksTheOneMatchingRow := by
  intro w
  cases hd : decode w with
  | ok i =>
    obtain ⟨hwf, rfl⟩ := decode_ok hd
    exact .inl ⟨i, rfl, hwf, rfl, (opcodeFit i).1, fun _ hmem => encode_matches_iff i hmem⟩
  | error f =>
    obtain rfl := Machine.decode_error w f hd
    exact .inr ⟨rfl, no_row_matches_of_decode_error hd, fun _ hfetch => Machine.instructionStep_of_decode_error hfetch hd⟩

end Sys2Proof
end

section
/-! PROOFS. The keys and timers of 44_keys_and_timers.md: what WaitKey does is read off the least set key (R142). -/

namespace Sys2Proof.Machine

section
variable (s : State)

/-- Reading a keyboard flag after writing one (10_state.md R19). -/
theorem State.setKey_keys_getElem (k j : Fin 16) (b : Bool) :
    (s.setKey k b).keys[j.val] = if j = k then b else s.keys[j.val] := by
  simp only [State.setKey_keys, Vector.getElem_set, ← Fin.ext_iff, eq_comm]

/-- R142: WaitKey with a least set key takes that key. -/
theorem exec_waitKey_of_some (x : Nibble) {k : Fin 16} (h : leastSetKey s.keys = some k) :
    exec (.waitKey x) s = .next ((s.setKey k false).setV x (BitVec.ofNat 8 k.val)) := by
  simp only [exec, execWaitKey, h]

/-- R142: WaitKey with no key set only moves PC back to itself. -/
theorem exec_waitKey_of_none (x : Nibble) (h : leastSetKey s.keys = none) :
    exec (.waitKey x) s = .next (s.setPc (s.pc - 2)) := by
  simp only [exec, execWaitKey, h]

end

/-- Settles O43: the two clauses are the two answers of `leastSetKey`. -/
theorem waitKeyTakesTheLowestKey : Obligations.WaitKeyTakesTheLowestKey := by
  intro x s
  constructor
  · intro k hset hlower
    have hk : leastSetKey s.keys = some k := (leastSetKey_some s.keys k).2 ⟨hset, hlower⟩
    refine ⟨_, exec_waitKey_of_some s x hk, fun r => ?_, fun j => ?_, rfl, fun a => ?_⟩
    · rw [State.setV_getV, State.setKey_getV]
    · exact s.setKey_keys_getElem k j false
    · rw [State.setV_byteAt, State.setKey_byteAt]
  · intro hclear
    exact exec_waitKey_of_none s x ((leastSetKey_none s.keys).2 hclear)

end Sys2Proof.Machine
end

section
/-! PROOFS. The exceptions of 60_exceptions.md: a handler's next state keeps HALT or holds a fault of the handler's own,
so DecodeError comes from an illegal word only (R151). -/

namespace Sys2Proof.Machine

variable {s t u : State}

/-- The faults that a handler can raise (R150): the fetch has its own AddressFault, and DecodeError comes before any
handler is chosen (R156). -/
def Fault.ofHandler : Fault → Bool
  | .decodeError _ | .addressFault .fetch _ => false
  | .ioError _ | .addressFault .read _ | .addressFault .write _ | .stackUnderflow | .keyIndexFault _ => true

/-- `t`, which a handler made of `s`, has HALT as in `s` or a fault of the handler. -/
def State.HandlerHalt (s t : State) : Prop := t.halt = s.halt ∨ ∃ f, t.halt = .halted f ∧ f.ofHandler = true

theorem State.handlerHalt_raise (s : State) {f : Fault} (hf : f.ofHandler = true) : s.HandlerHalt (s.raise f) :=
  .inr ⟨f, rfl, hf⟩

theorem State.handlerHalt_callBoundary (c : BoundaryCall) (e : BoundaryEvent) (h : t.halt = s.halt) :
    s.HandlerHalt (t.callBoundary c e) := by
  cases hr : t.nextReply with
  | ok => exact .inl (by rw [t.callBoundary_ok c e hr, ← h])
  | error => exact .inr ⟨.ioError c, by rw [t.callBoundary_error c e hr], rfl⟩

theorem State.handlerHalt_withRange {k : AccessKind} {n : Nat} (h : s.withRange k n t = .next u) (ht : s.HandlerHalt t)
    (hk : (Fault.addressFault k s.i.toNat).ofHandler = true) : s.HandlerHalt u := by
  obtain ⟨-, rfl⟩ | ⟨-, rfl⟩ := (s.withRange_next k n t u).1 h
  · exact ht
  · exact s.handlerHalt_raise hk

/-- What a handler can do to HALT (R150): only eight of the 34 can raise a fault. -/
theorem exec_handlerHalt (i : Instr) (h : exec i s = .next t) : s.HandlerHalt t := by
  cases i
  case ret =>
    simp only [exec, execReturn] at h
    split at h <;> cases h
    · exact s.handlerHalt_raise rfl
    · exact .inl rfl
  case storeBCD | storeRegisters | loadRegisters =>
    exact State.handlerHalt_withRange h (.inl rfl) rfl
  case draw =>
    exact State.handlerHalt_withRange h (State.handlerHalt_callBoundary _ _ rfl) rfl
  case skipKeyDown =>
    simp only [exec, execSkipKeyDown] at h
    split at h <;> cases h
    · exact s.handlerHalt_raise rfl
    · exact .inl (by split <;> rfl)
  case skipKeyUp =>
    simp only [exec, execSkipKeyUp] at h
    split at h <;> cases h
    · exact s.handlerHalt_raise rfl
    · exact .inl rfl
  case waitKey =>
    simp only [exec, execWaitKey] at h
    split at h <;> cases h <;> exact .inl rfl
  case setSound =>
    simp only [exec, execSetSound] at h
    split at h <;> cases h
    · exact State.handlerHalt_callBoundary _ _ rfl
    · exact .inl rfl
  all_goals
    cases h
    exact .inl rfl

/-- A running machine's handler never ends in DecodeError (R151). -/
theorem State.HandlerHalt.ne_decodeError (h : s.HandlerHalt t) (hrun : s.halt = .running) (w : Word) :
    t.halt ≠ .halted (.decodeError w) := by
  obtain heq | ⟨f, hf, hof⟩ := h
  · rw [heq, hrun]
    nofun
  · rw [hf]
    rintro ⟨⟩
    exact absurd hof nofun

/-- A step that fetches a word that decodes runs the handler with PC past the word (40 R80, R81). -/
theorem instructionStep_of_decode_ok {w : Word} {i : Instr} (hfetch : s.fetchWord = .ok w) (h : decode w = .ok i) :
    instructionStep s = exec i s.advancePc := by
  simp [instructionStep, hfetch, h]

theorem exists_row_matches_of_decode_ok {w : Word} {i : Instr} (h : decode w = .ok i) :
    ∃ row ∈ opcodeTable, w &&& row.mask = row.bits := by
  obtain ⟨-, rfl⟩ := decode_ok h
  exact ⟨i.row, opcodeFit i⟩

/-- Settles O7: the split is on what `decode` answers, which is an error exactly where no row matches. -/
theorem illegalWordRaisesDecodeError : Obligations.IllegalWordRaisesDecodeError := by
  intro s w hrun hpc hw
  have hfetch : s.fetchWord = .ok w := hw ▸ s.fetchWord_ok hpc
  cases hd : decode w with
  | error f =>
    exact ⟨fun _ => instructionStep_of_decode_error hfetch hd,
      fun ⟨row, hmem, hmatch⟩ => absurd hmatch (no_row_matches_of_decode_error hd row hmem)⟩
  | ok i =>
    obtain ⟨row, hmem, hmatch⟩ := exists_row_matches_of_decode_ok hd
    obtain ⟨t, ht⟩ := exec_next s.advancePc i
    exact ⟨fun hnone => absurd hmatch (hnone row hmem),
      fun _ => ⟨t, (instructionStep_of_decode_ok hfetch hd).trans ht, (exec_handlerHalt i ht).ne_decodeError hrun⟩⟩

end Sys2Proof.Machine
end

section
/-! PROOFS. The round trip of 30_encoding.md: the fields of a format's word are the operands it was made of (R61, R62), so
the decoder gives every well-formed instruction back (R64, R69). -/

namespace Sys2Proof

/-! ## The fields of a word put together by a format (R61, R62) -/

section
variable (op x y n : Nibble) (nn : Byte) (nnn : Addr12)

@[simp] theorem fieldOp_formatA : fieldOp (formatA op nnn) = op :=
  BitVec.extractLsb'_append_eq_left

@[simp] theorem fieldNNN_formatA : fieldNNN (formatA op nnn) = nnn :=
  BitVec.extractLsb'_append_eq_right

/-- The overlap of R69: the `x` field of a word of format A is the top nibble of its `nnn`. -/
theorem fieldX_formatA : fieldX (formatA op nnn) = nnn.extractLsb' 8 4 := by
  rw [fieldX_eq_extract_fieldNNN, fieldNNN_formatA]

@[simp] theorem fieldOp_formatXI : fieldOp (formatXI op x nn) = op := by
  unfold fieldOp formatXI
  rw [BitVec.extractLsb'_append_eq_of_le (by decide)]
  exact BitVec.extractLsb'_append_eq_left

@[simp] theorem fieldX_formatXI : fieldX (formatXI op x nn) = x := by
  unfold fieldX formatXI
  rw [BitVec.extractLsb'_append_eq_of_le (by decide)]
  exact BitVec.extractLsb'_append_eq_right

@[simp] theorem fieldNN_formatXI : fieldNN (formatXI op x nn) = nn :=
  BitVec.extractLsb'_append_eq_right

@[simp] theorem fieldOp_formatXY : fieldOp (formatXY op x y n) = op := by
  unfold fieldOp formatXY
  rw [BitVec.extractLsb'_append_eq_of_le (by decide), BitVec.extractLsb'_append_eq_of_le (by decide)]
  exact BitVec.extractLsb'_append_eq_left

@[simp] theorem fieldX_formatXY : fieldX (formatXY op x y n) = x := by
  unfold fieldX formatXY
  rw [BitVec.extractLsb'_append_eq_of_le (by decide), BitVec.extractLsb'_append_eq_of_le (by decide)]
  exact BitVec.extractLsb'_append_eq_right

@[simp] theorem fieldY_formatXY : fieldY (formatXY op x y n) = y := by
  unfold fieldY formatXY
  rw [BitVec.extractLsb'_append_eq_of_le (by decide)]
  exact BitVec.extractLsb'_append_eq_right

@[simp] theorem fieldN_formatXY : fieldN (formatXY op x y n) = n :=
  BitVec.extractLsb'_append_eq_right

end

/-! ## The round trip -/

/-- Settles O1: the operands are read back by the field lemmas; only JumpOffset needs to be well formed. -/
theorem decodeInvertsEncode : Obligations.DecodeInvertsEncode := by
  intro i hwf
  cases i
  case clear | ret => decide
  case jumpOffset nnn x =>
    obtain rfl : x = nnn.extractLsb' 8 4 := beq_iff_eq.1 hwf
    simp [encode, decode, fieldX_formatA]
  case move | or | and | xor | addReg | subXY | shiftRight | subYX | shiftLeft =>
    simp [encode, decode, decodeGroup8]
  case skipKeyDown | skipKeyUp =>
    simp [encode, decode, decodeGroupE]
  case getDelay | waitKey | setDelay | setSound | addIndex | loadFontAddr | storeBCD | storeRegisters | loadRegisters =>
    simp [encode, decode, decodeGroupF]
  all_goals simp [encode, decode]

/-- Settles O2: `decode_ok`, which goes through the decoder's groups. -/
theorem encodeInvertsDecode : Obligations.EncodeInvertsDecode := fun _ _ => decode_ok

/-- Settles O4: each word is decoded. -/
theorem specWordsDecode : Obligations.SpecWordsDecode := by
  unfold Obligations.SpecWordsDecode
  decide

end Sys2Proof
end

section
/-! PROOFS. What an instruction can do to the state, said once: the 34 handlers (40 to 44 of the spec) have the few
effects below, and what an instruction leaves unchanged is read off them. -/

namespace Sys2Proof.Machine

section
variable {s t u : State} {i : Instr}

theorem next_unique {r : Result} (ht : r = .next t) (hu : r = .next u) : t = u :=
  Host.Outcome.next.inj (ht.symm.trans hu)

/-- `Effect s i t`: the instruction `i` may turn `s` into `t`. Each constructor is one shape of update, with the
instructions that make it and the bound on what it writes. -/
inductive Effect (s : State) : Instr → State → Prop where
  | raised {i : Instr} {f : Fault} (hof : f.ofHandler = true) (hio : ∀ c, f ≠ .ioError c) : Effect s i (s.raise f)
  | cleared : Effect s .clear (s.setFb (FrameBuffer.blank s.cfg.height s.cfg.width))
  | returned {target : Word} (htop : s.stack.getLast? = some target) : Effect s .ret (s.dropTop.setPc target)
  | called (nnn : Addr12) : Effect s (.call nnn) ((s.push s.pc).setPc (zext16 nnn))
  | jumped {i : Instr} {target : Word} (hle : target.toNat ≤ maxPc) (hmoves : movesPc i = true) :
      Effect s i (s.setPc target)
  | skipped {i : Instr} (c : Bool) (hmoves : movesPc i = true) : Effect s i (s.skipIf c)
  | retried (x : Nibble) : Effect s (.waitKey x) (s.setPc (s.pc - 2))
  | wroteV {i : Instr} {x : Nibble} (b : Byte) (hx : mayWriteV x i = true) : Effect s i (s.setV x b)
  | wroteFlagged {i : Instr} {x : Nibble} (b : Byte) (c : Bool) (hx : mayWriteV x i = true)
      (hvf : mayWriteV vf i = true) : Effect s i (s.setResultAndFlag x b c)
  | drewRandom (x : Nibble) (nn : Byte) : Effect s (.random x nn) (s.takeRandom.setV x (s.nextRandom &&& nn))
  | loadedRegisters (x : Nibble) (v : Vector Byte 16)
      (hkept : ∀ r : Nibble, ¬ r.toNat ≤ x.toNat → ({ s with v := v } : State).getV r = s.getV r) :
      Effect s (.loadRegisters x) { s with v := v }
  | wroteI {i : Instr} (w : Word)
      (hi : (∃ n, i = .loadIndex n) ∨ (∃ x, i = .addIndex x) ∨ ∃ x, i = .loadFontAddr x) : Effect s i (s.setI w)
  | stored {i : Instr} (bs : List Byte) (hfits : s.i.toNat + bs.length ≤ memSize)
      (hi : (∃ x, i = .storeBCD x) ∨ ∃ x, i = .storeRegisters x) : Effect s i (s.putBytes s.i.toNat bs)
  | drawn (x y n : Nibble) : Effect s (.draw x y n)
      ((s.setFb (s.drawn x y n).fb).setV vf (flagByte (s.drawn x y n).collision)).updateScreen
  | consumedKey {i : Instr} (k : Fin 16) (c : Bool) (hi : (∃ x, i = .skipKeyDown x) ∨ ∃ x, i = .skipKeyUp x) :
      Effect s i ((s.setKey k false).skipIf c)
  | tookKey (x : Nibble) (k : Fin 16) : Effect s (.waitKey x) ((s.setKey k false).setV x (BitVec.ofNat 8 k.val))
  | wroteDt (x : Nibble) : Effect s (.setDelay x) (s.setDt (s.getV x))
  | wroteSt (x : Nibble) : Effect s (.setSound x) (s.setSt (s.getV x))
  | startedBeep (x : Nibble) (hst : s.st = 0) (hx : s.getV x ≠ 0) :
      Effect s (.setSound x) ((s.setSt (s.getV x)).callBoundary .startBeep .startBeep)

/-! ## The handlers have these effects -/

theorem zext16_toNat (nnn : Addr12) : (zext16 nnn).toNat = nnn.toNat :=
  BitVec.toNat_setWidth_of_le (by decide)

theorem zext16_le_maxPc (nnn : Addr12) : (zext16 nnn).toNat ≤ maxPc := by
  have := nnn.isLt
  rw [zext16_toNat, maxPc]
  omega

/-- R90, R15: a JumpOffset target is an exact sum. -/
theorem offsetTarget_toNat (nnn : Addr12) (b : Byte) :
    (zext16 nnn + b.setWidth 16).toNat = nnn.toNat + b.toNat := by
  have := nnn.isLt
  have := b.isLt
  rw [BitVec.toNat_add, zext16_toNat, BitVec.toNat_setWidth_of_le (by decide), Nat.mod_eq_of_lt (by omega)]

theorem offsetTarget_le_maxPc (nnn : Addr12) (b : Byte) : (zext16 nnn + b.setWidth 16).toNat ≤ maxPc := by
  have := nnn.isLt
  have := b.isLt
  rw [offsetTarget_toNat, maxPc]
  omega

/-- An instruction that touches a range at `I` has the effect of its completion, or raises AddressFault. -/
theorem Effect.of_withRange {k : AccessKind} {n : Nat} (h : s.withRange k n u = .next t)
    (hof : (Fault.addressFault k s.i.toNat).ofHandler = true)
    (hu : rangeInMemory s.i.toNat n = true → Effect s i u) : Effect s i t := by
  obtain ⟨hin, rfl⟩ | ⟨-, rfl⟩ := (s.withRange_next k n u t).1 h
  · exact hu hin
  · exact .raised hof nofun

theorem fits_of_rangeInMemory {a n : Nat} (h : rangeInMemory a n = true) (hn : n ≠ 0) : a + n ≤ memSize :=
  ((rangeInMemory_iff a n).1 h).resolve_left hn

/-- The effect of every handler; all frames are read off this lemma. -/
theorem exec_effect (h : exec i s = .next t) : Effect s i t := by
  cases i
  case clear => cases h; exact .cleared
  case ret =>
    simp only [exec, execReturn] at h
    split at h <;> cases h
    · exact .raised rfl nofun
    · next htop => exact .returned htop
  case jump nnn => cases h; exact .jumped (zext16_le_maxPc nnn) rfl
  case call nnn => cases h; exact .called nnn
  case skipEqImm | skipNeqImm | skipEqReg | skipNeqReg => cases h; exact .skipped _ rfl
  case jumpOffset nnn x => cases h; exact .jumped (offsetTarget_le_maxPc nnn _) rfl
  case loadImm | addImm | move | or | and | xor | getDelay => cases h; exact .wroteV _ (beq_self_eq_true _)
  case addReg | subXY | subYX | shiftRight | shiftLeft =>
    cases h; exact .wroteFlagged _ _ (by simp [mayWriteV]) (by simp [mayWriteV])
  case random x nn => cases h; exact .drewRandom x nn
  case loadIndex nnn => cases h; exact .wroteI _ (.inl ⟨nnn, rfl⟩)
  case addIndex x => cases h; exact .wroteI _ (.inr (.inl ⟨x, rfl⟩))
  case loadFontAddr x => cases h; exact .wroteI _ (.inr (.inr ⟨x, rfl⟩))
  case storeBCD x =>
    exact .of_withRange h rfl fun hin => .stored _ (fits_of_rangeInMemory hin (Nat.succ_ne_zero 2)) (.inl ⟨x, rfl⟩)
  case storeRegisters x =>
    refine .of_withRange h rfl fun hin => .stored _ ?_ (.inr ⟨x, rfl⟩)
    rw [State.registersTo_length]
    exact fits_of_rangeInMemory hin (Nat.succ_ne_zero _)
  case loadRegisters x =>
    exact .of_withRange h rfl fun _ => .loadedRegisters x (s.loadRegistersTo x).v fun r hr =>
      (s.loadRegistersTo_getV x r).trans (if_neg hr)
  case draw x y n => exact .of_withRange h rfl fun _ => .drawn x y n
  case skipKeyDown x =>
    simp only [exec, execSkipKeyDown] at h
    split at h <;> cases h
    · exact .raised rfl nofun
    · split
      · exact .consumedKey _ true (.inl ⟨x, rfl⟩)
      · exact .skipped false rfl
  case skipKeyUp x =>
    simp only [exec, execSkipKeyUp] at h
    split at h <;> cases h
    · exact .raised rfl nofun
    · exact .consumedKey _ _ (.inr ⟨x, rfl⟩)
  case waitKey x =>
    simp only [exec, execWaitKey] at h
    split at h <;> cases h
    · exact .tookKey x _
    · exact .retried x
  case setDelay x => cases h; exact .wroteDt x
  case setSound x =>
    simp only [exec, execSetSound] at h
    split at h <;> cases h
    · next hrise => exact .startedBeep x hrise.1 hrise.2
    · exact .wroteSt x

/-! ## What the effects leave unchanged -/

theorem Effect.cfg (h : Effect s i t) : t.cfg = s.cfg := by cases h <;> rfl

theorem Effect.batchLeft (h : Effect s i t) : t.batchLeft = s.batchLeft := by cases h <;> rfl

theorem Effect.keyReplies (h : Effect s i t) : t.env.keyReplies = s.env.keyReplies := by cases h <;> rfl

theorem Effect.i_writer (h : Effect s i t) (hne : t.i ≠ s.i) :
    (∃ n, i = .loadIndex n) ∨ (∃ x, i = .addIndex x) ∨ ∃ x, i = .loadFontAddr x := by
  cases h
  case wroteI hi => exact hi
  all_goals exact absurd rfl hne

theorem Effect.pc_writer (h : Effect s i t) (hne : t.pc ≠ s.pc) : movesPc i = true := by
  cases h
  case returned | called | retried | tookKey => rfl
  case jumped hmoves => exact hmoves
  case skipped hmoves => exact hmoves
  case consumedKey hi => obtain ⟨x, rfl⟩ | ⟨x, rfl⟩ := hi <;> rfl
  all_goals exact absurd rfl hne

theorem Effect.stack_writer (h : Effect s i t) (hne : t.stack ≠ s.stack) : i = .ret ∨ ∃ n, i = .call n := by
  cases h
  case returned => exact .inl rfl
  case called nnn => exact .inr ⟨nnn, rfl⟩
  all_goals exact absurd rfl hne

theorem Effect.dt_writer (h : Effect s i t) (hne : t.dt ≠ s.dt) : ∃ x, i = .setDelay x := by
  cases h
  case wroteDt x => exact ⟨x, rfl⟩
  all_goals exact absurd rfl hne

theorem Effect.st_writer (h : Effect s i t) (hne : t.st ≠ s.st) : ∃ x, i = .setSound x := by
  cases h
  case wroteSt x | startedBeep x _ _ => exact ⟨x, rfl⟩
  all_goals exact absurd rfl hne

theorem Effect.keys_writer (h : Effect s i t) (hne : t.keys ≠ s.keys) :
    (∃ x, i = .skipKeyDown x) ∨ (∃ x, i = .skipKeyUp x) ∨ ∃ x, i = .waitKey x := by
  cases h
  case consumedKey hi => exact hi.imp_right .inl
  case tookKey x k => exact .inr (.inr ⟨x, rfl⟩)
  all_goals exact absurd rfl hne

theorem Effect.fb_writer (h : Effect s i t) (hne : t.fb ≠ s.fb) : i = .clear ∨ ∃ x y n, i = .draw x y n := by
  cases h
  case cleared => exact .inl rfl
  case drawn x y n => exact .inr ⟨x, y, n, rfl⟩
  all_goals exact absurd rfl hne

theorem Effect.mem_writer (h : Effect s i t) (hne : t.mem ≠ s.mem) :
    (∃ x, i = .storeBCD x) ∨ ∃ x, i = .storeRegisters x := by
  cases h
  case stored hi => exact hi
  all_goals exact absurd rfl hne

/-- R11, R12: the registers that an instruction may not write are kept. -/
theorem Effect.getV_eq (h : Effect s i t) {r : Nibble} (hr : mayWriteV r i = false) : t.getV r = s.getV r := by
  have hne : ∀ {x : Nibble}, mayWriteV x i = true → r ≠ x := by
    rintro _ hx rfl
    exact absurd hx (by simp [hr])
  cases h
  case wroteV b hx => rw [State.setV_getV, if_neg (hne hx)]
  case wroteFlagged b c hx hvf => rw [State.setResultAndFlag_getV, if_neg (hne hvf), if_neg (hne hx)]
  case drewRandom x nn => rw [State.setV_getV, if_neg (hne (beq_self_eq_true x)), State.takeRandom_getV]
  case loadedRegisters x v hkept => exact hkept r (of_decide_eq_false hr)
  case drawn x y n =>
    rw [State.updateScreen_getV, State.setV_getV, if_neg (hne (beq_self_eq_true vf)), State.setFb_getV]
  case tookKey x k => rw [State.setV_getV, if_neg (hne (beq_self_eq_true x)), State.setKey_getV]
  all_goals rfl

end

/-! ## The obligations on frames and faults -/

/-- Settles O29: the registers that the table of writers does not name are kept by every effect. -/
theorem registersHaveTheirWriters : Obligations.RegistersHaveTheirWriters :=
  fun _ _ _ _ h hr => (exec_effect h).getV_eq hr

/-- Settles O50: component by component, the effects that write it name their instructions. -/
theorem eachComponentHasItsWriters : Obligations.EachComponentHasItsWriters := by
  intro i s t h
  have he := exec_effect h
  exact ⟨he.i_writer, he.pc_writer, he.stack_writer, he.dt_writer, he.st_writer, he.keys_writer, he.fb_writer,
    he.mem_writer, he.cfg, he.batchLeft⟩

/-- Settles O49: the two effects that make a request are a Draw's and a rising SetSound's. -/
theorem boundaryRequestsComeFromTheirInstructions : Obligations.BoundaryRequestsComeFromTheirInstructions := by
  intro i s t h
  cases exec_effect h
  case drawn x y n => exact .inr (.inl ⟨x, y, n, rfl, rfl⟩)
  case startedBeep x hst hx => exact .inr (.inr ⟨x, rfl, hst, hx, rfl⟩)
  all_goals exact .inl rfl

/-- A boundary call of a running machine halts it, if at all, with IOError (R152). -/
theorem State.callBoundary_fault {s : State} {c : BoundaryCall} {e : BoundaryEvent} {f : Fault}
    (h : (s.callBoundary c e).halt = .halted f) (hrun : s.halt = .running) : f = .ioError c := by
  cases hr : s.nextReply with
  | ok => simp [s.callBoundary_ok c e hr, hrun] at h
  | error => simpa [s.callBoundary_error c e hr, eq_comm] using h

/-- Settles O51: a running machine is halted by `raised`, which writes HALT only, or by a boundary call. -/
theorem faultsArePrecise : Obligations.FaultsArePrecise := by
  intro i s t f hrun h hf hio
  cases exec_effect h
  case raised =>
    show { s with halt := .running } = s
    rw [← hrun]
  case drawn | startedBeep => exact absurd (State.callBoundary_fault hf hrun) (hio _)
  all_goals exact absurd (hrun.symm.trans hf) nofun

end Sys2Proof.Machine
end

section
/-! PROOFS. The display of 43_display.md: a Draw toggles exactly the cells under its sprite (R131, R132), and what follows
from that for the grid, for VF and for drawing twice. -/

namespace Sys2Proof.Machine

section
variable {s : State} (x y n : Nibble)

/-- Grids of one shape that agree on every cell of the screen are equal. -/
theorem FrameBuffer.ext_of_shaped {height width : Nat} {g g' : FrameBuffer}
    (hg : FrameBuffer.shaped height width g = true) (hg' : FrameBuffer.shaped height width g' = true)
    (h : ∀ r c, r < height → c < width → g.get r c = g'.get r c) : g = g' := by
  obtain ⟨hlen, hrow⟩ := (FrameBuffer.shaped_iff height width g).1 hg
  obtain ⟨hlen', hrow'⟩ := (FrameBuffer.shaped_iff height width g').1 hg'
  refine List.ext_getElem (hlen.trans hlen'.symm) fun r hr hr' => ?_
  have hw := hrow _ (List.getElem_mem hr)
  have hw' := hrow' _ (List.getElem_mem hr')
  refine List.ext_getElem (hw.trans hw'.symm) fun c hc hc' => ?_
  simpa [FrameBuffer.get, hr, hr', hc, hc'] using h r c (hlen ▸ hr) (hw ▸ hc)

/-- R131, R132: a Draw toggles the cells under the set bits of its sprite, each once. -/
theorem State.drawn_toggles (hfb : FrameBuffer.shaped s.cfg.height s.cfg.width s.fb = true) :
    Canvas.Toggles s.cfg.height s.cfg.width (s.spriteBit x y n) ⟨s.fb, false⟩ (s.drawn x y n) := by
  refine (Canvas.plotRows_toggles s.cfg.height s.cfg.width (s.originCol x) (s.bytesFrom s.i.toNat n.toNat)
    (s.originRow y) ⟨s.fb, false⟩ hfb).congr fun r c _ _ => ?_
  rw [State.bytesFrom_length, State.spriteBit]
  by_cases hin : s.originRow y ≤ r ∧ r < s.originRow y + n.toNat ∧ s.originCol x ≤ c ∧ c < s.originCol x + 8
  · have hlen : r - s.originRow y < (s.bytesFrom s.i.toNat n.toNat).length := by
      rw [State.bytesFrom_length]
      omega
    rw [List.getD_eq_getElem _ _ hlen, State.bytesFrom_getElem]
  · simp only [hin, decide_false, Bool.false_and]

theorem State.drawn_collision_iff (hfb : FrameBuffer.shaped s.cfg.height s.cfg.width s.fb = true) :
    (s.drawn x y n).collision = true ↔
      ∃ r c, r < s.cfg.height ∧ c < s.cfg.width ∧ s.spriteBit x y n r c = true ∧ s.fb.get r c = true := by
  simpa using (s.drawn_toggles x y n hfb).hit

/-- What a Draw that completes makes of the state (R131). -/
def State.afterDraw (s : State) (x y n : Nibble) : State :=
  ((s.setFb (s.drawn x y n).fb).setV vf (flagByte (s.drawn x y n).collision)).updateScreen

theorem State.afterDraw_getV (r : Nibble) :
    (s.afterDraw x y n).getV r = if r = 0xF then flagByte (s.drawn x y n).collision else s.getV r := by
  rw [State.afterDraw, State.updateScreen_getV, State.setV_getV, State.setFb_getV, vf]

theorem State.afterDraw_flag : (s.afterDraw x y n).getV 0xF = flagByte (s.drawn x y n).collision := by
  rw [State.afterDraw_getV, if_pos rfl]

theorem State.afterDraw_getV_of_ne {r : Nibble} (hr : r ≠ 0xF) : (s.afterDraw x y n).getV r = s.getV r := by
  rw [State.afterDraw_getV, if_neg hr]

theorem rangeInMemory_sprite (h : n = 0 ∨ s.i.toNat + n.toNat - 1 ≤ 4095) :
    rangeInMemory s.i.toNat n.toNat = true := by
  rw [rangeInMemory_iff]
  obtain rfl | h := h
  · exact .inl rfl
  · omega

/-- R131, R153: a Draw whose sprite lies in memory, or has no rows, completes. -/
theorem exec_draw (h : n = 0 ∨ s.i.toNat + n.toNat - 1 ≤ 4095) :
    exec (.draw x y n) s = .next (s.afterDraw x y n) :=
  s.withRange_in .read n.toNat _ (rangeInMemory_sprite n h)

theorem flagByte_eq_one_iff (c : Bool) : flagByte c = 1 ↔ c = true := by cases c <;> simp [flagByte]

/-- HALT after a boundary call (R152). -/
theorem State.callBoundary_halt_eq_ite (s : State) (c : BoundaryCall) (e : BoundaryEvent) : (s.callBoundary c e).halt =
    if s.nextReply = .ok then s.halt else .halted (.ioError c) := by
  rw [State.callBoundary_halt]
  cases s.nextReply <;> rfl

theorem State.afterDraw_halt : (s.afterDraw x y n).halt =
    if s.nextReply = .ok then s.halt else .halted (.ioError .updateScreen) :=
  State.callBoundary_halt_eq_ite _ _ _

/-- The sprite of a second Draw of the same form is that of the first, unless the first one's flag moves the origin. -/
theorem State.spriteBit_afterDraw (hx : x ≠ 0xF) (hy : y ≠ 0xF) :
    (s.afterDraw x y n).spriteBit x y n = s.spriteBit x y n := by
  have hrow : (s.afterDraw x y n).originRow y = s.originRow y := by
    rw [State.originRow, State.afterDraw_getV_of_ne x y n hy]
    rfl
  have hcol : (s.afterDraw x y n).originCol x = s.originCol x := by
    rw [State.originCol, State.afterDraw_getV_of_ne x y n hx]
    rfl
  funext r c
  rw [State.spriteBit, hrow, hcol]
  rfl

end

/-! ## The obligations on Clear and Draw -/

/-- Settles O36: the blank grid has the shape of the screen and no lit cell. -/
theorem clearUnlightsEveryCell : Obligations.ClearUnlightsEveryCell := fun _ =>
  ⟨_, rfl, FrameBuffer.blank_shaped _ _, FrameBuffer.blank_get _ _, rfl, fun _ => rfl⟩

/-- Settles O37: cells and collision are read off `State.drawn_toggles`. A cell went from lit to unlit exactly when it
was lit and under the sprite. -/
theorem drawInvertsExactlyTheSprite : Obligations.DrawInvertsExactlyTheSprite := by
  intro x y n s hfb hrange hreply
  have htog := s.drawn_toggles x y n hfb
  have hwentOff : ∀ r c, r < s.cfg.height → c < s.cfg.width →
      (s.spriteBit x y n r c = true ∧ s.fb.get r c = true ↔
        s.fb.get r c = true ∧ (s.drawn x y n).fb.get r c = false) := by
    intro r c hr hc
    rw [htog.cell r c hr hc]
    cases s.fb.get r c <;> cases s.spriteBit x y n r c <;> decide
  refine ⟨s.afterDraw x y n, exec_draw x y n hrange, htog.shape, htog.cell, ?_, ?_,
    fun r hr => State.afterDraw_getV_of_ne x y n hr, rfl, rfl, rfl, rfl, ?_, fun _ => rfl⟩
  · rw [State.afterDraw_flag]
    exact flagByte_zero_or_one _
  · rw [State.afterDraw_flag, flagByte_eq_one_iff, s.drawn_collision_iff x y n hfb]
    exact exists_congr fun r => exists_congr fun c =>
      and_congr_right fun hr => and_congr_right fun hc => hwentOff r c hr hc
  · show { s with halt := (s.afterDraw x y n).halt } = s
    rw [State.afterDraw_halt, if_pos hreply]

/-- Settles O38: inverting the same cells twice is the identity, and a cell collides in the second Draw exactly when it
was unlit before the first. -/
theorem drawTwiceRestoresTheGrid : Obligations.DrawTwiceRestoresTheGrid := by
  intro x y n s t u hfb hrange hx hy ht hu
  obtain rfl := next_unique (exec_draw x y n hrange) ht
  obtain rfl := next_unique (exec_draw (s := s.afterDraw x y n) x y n hrange) hu
  have hfirst := s.drawn_toggles x y n hfb
  have hsecond := (s.afterDraw x y n).drawn_toggles x y n hfirst.shape
  have hcollision := (s.afterDraw x y n).drawn_collision_iff x y n hfirst.shape
  rw [State.spriteBit_afterDraw x y n hx hy] at hsecond hcollision
  have hcell : ∀ r c, r < s.cfg.height → c < s.cfg.width →
      (s.afterDraw x y n).fb.get r c = (s.fb.get r c ^^ s.spriteBit x y n r c) := hfirst.cell
  constructor
  · refine FrameBuffer.ext_of_shaped hsecond.shape hfb fun r c hr hc => ?_
    exact (hsecond.cell r c hr hc).trans (by rw [hcell r c hr hc, Bool.xor_assoc, Bool.xor_self, Bool.xor_false])
  · rw [State.afterDraw_flag, flagByte_eq_one_iff, hcollision]
    refine exists_congr fun r => exists_congr fun c => and_congr_right fun hr => and_congr_right fun hc =>
      and_congr_right fun hbit => ?_
    rw [hcell r c hr hc, hbit, Bool.xor_true, Bool.not_eq_true']

/-- Settles O39: a sprite of no rows toggles no cell, so the canvas is the one the Draw began with. -/
theorem drawOfNoRowsOnlyClearsTheFlag : Obligations.DrawOfNoRowsOnlyClearsTheFlag := by
  intro x y s
  exact ⟨s.afterDraw x y 0, exec_draw x y 0 (.inl rfl), rfl, State.afterDraw_getV x y 0, rfl, rfl, rfl, rfl,
    State.afterDraw_halt x y 0, rfl⟩

/-- Settles O40: the range check comes before every write. -/
theorem drawOutsideMemoryFaults : Obligations.DrawOutsideMemoryFaults := by
  intro x y n s hn hout
  have hn' : n.toNat ≠ 0 := fun h => hn (BitVec.eq_of_toNat_eq h)
  refine s.withRange_out .read n.toNat _ (Bool.eq_false_iff.2 fun hin => ?_)
  obtain h | h := (rangeInMemory_iff _ _).1 hin <;> omega

/-- Settles O47: the boundary is asked last, so what the Draw wrote does not depend on the answer. -/
theorem failedDrawKeepsItsWrites : Obligations.FailedDrawKeepsItsWrites := by
  intro x y n s t e hrange _ herr ht
  obtain rfl := next_unique (exec_draw x y n hrange) ht
  refine ⟨State.afterDraw { s with env := e } x y n, exec_draw x y n hrange, ?_, rfl, rfl, rfl, rfl, rfl⟩
  rw [State.afterDraw_halt, herr]
  rfl

end Sys2Proof.Machine
end

section
/-! PROOFS. The run loop of 60_exceptions.md: what a tick, a key poll and a step can do (R162, R165, R166), and what no step
changes. -/

namespace Sys2Proof.Machine

section
variable {s t : State} {i : Instr}

/-! ## The tick (R162) -/

/-- A timer after a tick: one less, and 0 stays 0. -/
def decremented (b : Byte) : Byte := if b = 0 then 0 else b - 1

theorem decremented_toNat (b : Byte) : (decremented b).toNat = b.toNat - 1 := by
  unfold decremented
  split
  · next h => simp [h]
  · bv_omega

theorem State.setDt_self (s : State) {b : Byte} (h : s.dt = b) : s.setDt b = s := by
  subst h
  rfl

theorem State.setSt_self (s : State) {b : Byte} (h : s.st = b) : s.setSt b = s := by
  subst h
  rfl

/-- The state with both timers decremented, before the boundary is asked anything. -/
def State.countDown (s : State) : State := (s.setDt (decremented s.dt)).setSt (decremented s.st)

/-- Everything a tick of a running machine can do: the end of the beep is asked for exactly when ST goes from 1 to 0. -/
theorem State.tick_eq (hrun : s.halt = .running) :
    s.tick = if s.st = 1 then s.countDown.callBoundary .endBeep .endBeep else s.countDown := by
  have hdt : (if s.dt = 0 then s else s.setDt (s.dt - 1)) = s.setDt (decremented s.dt) := by
    unfold decremented
    split
    · next h => exact (s.setDt_self h).symm
    · rfl
  rw [State.tick, if_pos hrun, State.tickTimers, hdt, State.countDown, State.setDt_st]
  by_cases h0 : s.st = 0
  · rw [if_pos h0, if_neg (by rw [h0]; decide), h0]
    exact (State.setSt_self (s.setDt (decremented s.dt)) h0).symm
  · have h1 : s.st - 1 = 0 ↔ s.st = 1 := sub_eq_zero
    simp only [h0, h1, decremented, if_false]

theorem State.tick_env_keyReplies (s : State) : s.tick.env.keyReplies = s.env.keyReplies := by
  by_cases hrun : s.halt = .running
  · rw [State.tick_eq hrun]
    split <;> rfl
  · rw [s.tick_halted hrun]

theorem State.tickIfDue_of_batchLeft_ne_zero (h : s.batchLeft ≠ 0) : s.tickIfDue = s := if_neg h

theorem State.tickIfDue_of_batchLeft_eq_zero (h : s.batchLeft = 0) :
    s.tickIfDue = { s.tick with batchLeft := s.cfg.opcodesPerCycle } := if_pos h

theorem State.tickIfDue_env_keyReplies (s : State) : s.tickIfDue.env.keyReplies = s.env.keyReplies := by
  by_cases h : s.batchLeft = 0
  · rw [State.tickIfDue_of_batchLeft_eq_zero h]
    exact s.tick_env_keyReplies
  · rw [State.tickIfDue_of_batchLeft_ne_zero h]

/-! ## The step (R166) -/

theorem step_of_halted {f : Fault} (h : s.halt = .halted f) : step s = .fault f := by
  simp only [step, loopTurn, h]

theorem step_of_tick_halts (hrun : s.halt = .running) (htick : s.tickIfDue.halt ≠ .running) :
    step s = .next s.tickIfDue := by
  obtain ⟨f, hf, -⟩ | ⟨-, -, h⟩ | ⟨-, h, -⟩ | ⟨⟨-, h, -⟩, -⟩ := step_cases s
  · exact absurd (hrun.symm.trans hf) nofun
  · exact h
  · exact absurd h htick
  · exact absurd h htick

theorem step_of_poll_halts (hrun : s.halt = .running) (htick : s.tickIfDue.halt = .running)
    (hpoll : s.tickIfDue.keyPoll.halt ≠ .running) : step s = .next s.tickIfDue.keyPoll := by
  obtain ⟨f, hf, -⟩ | ⟨-, h, -⟩ | ⟨-, -, -, h⟩ | ⟨⟨-, -, h⟩, -⟩ := step_cases s
  · exact absurd (hrun.symm.trans hf) nofun
  · exact absurd htick h
  · exact h
  · exact absurd h hpoll

theorem step_of_reachesFetch (hfetch : s.reachesFetch) : step s = instructionStep s.atFetch := by
  obtain ⟨hrun, htick, hpoll⟩ := hfetch
  obtain ⟨f, hf, -⟩ | ⟨-, h, -⟩ | ⟨-, -, h, -⟩ | ⟨-, h⟩ := step_cases s
  · exact absurd (hrun.symm.trans hf) nofun
  · exact absurd htick h
  · exact absurd hpoll h
  · exact h

/-- The instruction that is run is run at the state after the tick and the key poll, with PC past it (40 R80, R81). -/
theorem step_of_runs (h : s.runs i) : step s = exec i s.atFetch.advancePc := by
  obtain ⟨hfetch, hpc, hdecode⟩ := h
  have hword := s.atFetch.fetchWord_ok (by rw [State.atFetch_pc]; exact hpc)
  rw [State.atFetch_pc, State.atFetch_byteAt, State.atFetch_byteAt] at hword
  rw [step_of_reachesFetch hfetch, instructionStep_of_decode_ok hword hdecode]

/-- `Turn s t`: a step may turn `s` into `t`. Each constructor is one way a turn of the run loop ends. -/
inductive Turn (s : State) : State → Prop where
  | tickHalted (htick : s.tickIfDue.halt ≠ .running) : Turn s s.tickIfDue
  | pollHalted (htick : s.tickIfDue.halt = .running) (hpoll : s.tickIfDue.keyPoll.halt ≠ .running) :
      Turn s s.tickIfDue.keyPoll
  | fetchFaulted (f : Fault) (hfetch : s.reachesFetch) : Turn s (s.atFetch.raise f)
  | illegalWord (f : Fault) (hfetch : s.reachesFetch) (hpc : s.pc.toNat ≤ 4094) :
      Turn s (s.atFetch.advancePc.raise f)
  | ran {i : Instr} {t : State} (hruns : s.runs i) (he : Effect s.atFetch.advancePc i t) : Turn s t

theorem step_turn (h : step s = .next t) : Turn s t := by
  obtain ⟨f, -, h'⟩ | ⟨-, htick, h'⟩ | ⟨-, htick, hpoll, h'⟩ | ⟨hfetch, h'⟩ := step_cases s <;> rw [h'] at h
  · cases h
  · cases h
    exact .tickHalted htick
  · cases h
    exact .pollHalted htick hpoll
  · obtain ⟨-, h'⟩ | ⟨hpc, w, hw, ⟨-, h'⟩ | ⟨i, hdecode, h'⟩⟩ := instructionStep_cases s.atFetch <;> rw [h'] at h
    · cases h
      exact .fetchFaulted _ hfetch
    · cases h
      exact .illegalWord _ hfetch (s.atFetch_pc ▸ hpc)
    · simp only [State.atFetch_pc, State.atFetch_byteAt] at hpc hw
      exact .ran ⟨hfetch, hpc, hw ▸ hdecode⟩ (exec_effect h)

/-! ## What every step keeps or uses -/

theorem Turn.cfg (h : Turn s t) : t.cfg = s.cfg := by
  cases h
  case tickHalted => exact s.tickIfDue_cfg
  case pollHalted => rw [State.keyPoll_cfg, State.tickIfDue_cfg]
  case ran i hruns he => rw [he.cfg, State.advancePc_cfg, State.atFetch_cfg]
  all_goals exact s.atFetch_cfg

/-- A step that leaves the machine running has run an instruction: every other end of a turn is a halt. -/
theorem Turn.ran_of_running (h : Turn s t) (hrun : t.halt = .running) :
    ∃ i, s.runs i ∧ Effect s.atFetch.advancePc i t := by
  cases h
  case tickHalted htick => exact absurd hrun htick
  case pollHalted hpoll => exact absurd hrun hpoll
  case ran i hruns he => exact ⟨i, hruns, he⟩
  all_goals exact absurd hrun nofun

theorem State.atFetch_batchLeft (s : State) : s.atFetch.batchLeft = s.tickIfDue.batchLeft - 1 := by
  rw [State.atFetch, State.takeSlot_batchLeft, State.keyPoll_batchLeft]

theorem Turn.batchLeft (h : Turn s t) (hrun : t.halt = .running) : t.batchLeft = s.tickIfDue.batchLeft - 1 := by
  obtain ⟨i, -, he⟩ := h.ran_of_running hrun
  rw [he.batchLeft, State.advancePc_batchLeft, State.atFetch_batchLeft]

theorem step_batchLeft_of_ne_zero (h : step s = .next t) (hrun : t.halt = .running) (hbatch : s.batchLeft ≠ 0) :
    t.batchLeft = s.batchLeft - 1 := by
  rw [(step_turn h).batchLeft hrun, State.tickIfDue_of_batchLeft_ne_zero hbatch]

theorem step_batchLeft_of_eq_zero (h : step s = .next t) (hrun : t.halt = .running) (hbatch : s.batchLeft = 0) :
    t.batchLeft = s.cfg.opcodesPerCycle - 1 := by
  rw [(step_turn h).batchLeft hrun, State.tickIfDue_of_batchLeft_eq_zero hbatch]

/-! ## Runs of several steps -/

theorem run_succ_eq_next {n : Nat} (h : core.run (n + 1) s = .next t) :
    ∃ u, step s = .next u ∧ core.run n u = .next t := by
  simp only [Host.Core.run] at h
  split at h
  · next u hu => exact ⟨u, hu, h⟩
  · cases h
  · cases h

/-- A machine that still runs after some steps was running before them (R150). -/
theorem running_of_run_running {n : Nat} (h : core.run n s = .next t) (hrun : t.halt = .running) :
    s.halt = .running := by
  cases n with
  | zero => cases h; exact hrun
  | succ n =>
    obtain ⟨u, hu, -⟩ := run_succ_eq_next h
    cases hs : s.halt with
    | running => rfl
    | halted f => exact absurd ((step_of_halted hs).symm.trans hu) nofun

end

/-! ## The obligations on the schedule -/

/-- Settles O11: the two cases of `State.tickIfDue`, and the slot that a step has used. -/
theorem scheduleOfTicksAndSteps : Obligations.ScheduleOfTicksAndSteps := fun _ =>
  ⟨State.tickIfDue_of_batchLeft_eq_zero, State.tickIfDue_of_batchLeft_ne_zero, fun _ h hrun =>
    ⟨step_batchLeft_of_eq_zero h hrun, step_batchLeft_of_ne_zero h hrun⟩⟩

/-- Settles O12, by induction on the number of steps: each uses one slot, since the machine still runs after it. -/
theorem batchRunsItsSteps : Obligations.BatchRunsItsSteps := by
  intro n
  induction n with
  | zero =>
    intro s t _ h _
    cases h
    rfl
  | succ n ih =>
    intro s t hn h hrun
    obtain ⟨u, hu, h⟩ := run_succ_eq_next h
    have hslot := step_batchLeft_of_ne_zero hu (running_of_run_running h hrun) (by omega)
    rw [ih u t (by omega) h hrun, hslot]
    omega

/-- Settles O13: whatever ends the turn, the one key poll has used its answer and nothing else uses one. -/
theorem everyStepTakesOneKeyPoll : Obligations.EveryStepTakesOneKeyPoll := by
  intro s t h htick
  have hpolled : s.tickIfDue.keyPoll.env.keyReplies = s.env.keyReplies.tail := by
    rw [s.tickIfDue.keyPoll_env htick, Env.afterKeyReply_keyReplies, State.tickIfDue_env_keyReplies]
  cases step_turn h
  case tickHalted hhalt => exact absurd htick hhalt
  case ran i hruns he => exact he.keyReplies.trans hpolled
  all_goals exact hpolled

/-- Settles O14: inside a batch there is no tick, the key poll writes no timer, and neither does another instruction. -/
theorem timersChangeOnlyBetweenBatches : Obligations.TimersChangeOnlyBetweenBatches := by
  intro s t hbatch h
  have hnoTick := State.tickIfDue_of_batchLeft_ne_zero hbatch
  have hdt : s.atFetch.dt = s.dt := by rw [State.atFetch, hnoTick, State.takeSlot_dt, State.keyPoll_dt]
  have hst : s.atFetch.st = s.st := by rw [State.atFetch, hnoTick, State.takeSlot_st, State.keyPoll_st]
  cases step_turn h
  case tickHalted => exact ⟨fun _ => congrArg State.dt hnoTick, fun _ => congrArg State.st hnoTick⟩
  case ran i hruns he =>
    constructor
    · intro hnone
      by_contra hne
      obtain ⟨x, rfl⟩ := he.dt_writer (hdt.symm ▸ hne)
      exact hnone x hruns
    · intro hnone
      by_contra hne
      obtain ⟨x, rfl⟩ := he.st_writer (hst.symm ▸ hne)
      exact hnone x hruns
  all_goals exact ⟨fun _ => hdt, fun _ => hst⟩

/-- Settles O60, by induction on the number of steps. -/
theorem configurationNeverChanges : Obligations.ConfigurationNeverChanges := by
  intro n
  induction n with
  | zero =>
    intro s t h
    cases h
    rfl
  | succ n ih =>
    intro s t h
    obtain ⟨u, hu, h⟩ := run_succ_eq_next h
    rw [ih u t h, (step_turn hu).cfg]

/-! ## The obligations on single transitions -/

theorem wordOfBytes_toNat (hi lo : Byte) : (wordOfBytes hi lo).toNat = hi.toNat * 256 + lo.toNat := by
  rw [wordOfBytes, BitVec.toNat_append, Nat.shiftLeft_eq, Nat.mul_comm,
    ← Nat.two_pow_add_eq_or_of_lt lo.isLt, Nat.mul_comm]

/-- Settles O5: the three cases are the halted machine, the fetch's bound, and the fetched word. -/
theorem instructionStepFollowsTheFetchRule : Obligations.InstructionStepFollowsTheFetchRule := by
  intro s
  refine ⟨fun f => step_of_halted, fun hpc => ?_, fun hpc w hw => ?_⟩
  · rw [instructionStep, s.fetchWord_error (by omega)]
    rfl
  · have hfetch := s.fetchWord_ok (by omega)
    obtain rfl : w = _ := BitVec.eq_of_toNat_eq (hw.trans (wordOfBytes_toNat _ _).symm)
    exact ⟨fun i hi => instructionStep_of_decode_ok hfetch hi, fun e he => instructionStep_of_decode_error hfetch he⟩

/-- The state in which the handler runs, field by field (40 R80, R81). -/
theorem State.atFetch_advancePc_eq (s : State) : s.atFetch.advancePc =
    { s.tickIfDue.keyPoll with pc := s.pc + 2, batchLeft := s.tickIfDue.keyPoll.batchLeft - 1 } := by
  rw [State.advancePc, State.atFetch_pc]
  rfl

/-- Settles O6: the three ends of a turn of the run loop. -/
theorem stepRunsTheDecodedInstruction : Obligations.StepRunsTheDecodedInstruction := fun s hrun =>
  ⟨step_of_tick_halts hrun, step_of_poll_halts hrun, fun _ hruns => s.atFetch_advancePc_eq ▸ step_of_runs hruns⟩

/-- Settles O8: the tick, the key poll and the step each ask HALT first. -/
theorem haltedMachineHasNoTransition : Obligations.HaltedMachineHasNoTransition := by
  intro s f hf
  have hhalted : s.halt ≠ .running := fun h => absurd (h.symm.trans hf) nofun
  exact ⟨s.tick_halted hhalted, s.keyPoll_halted hhalted, step_of_halted hf⟩

/-- Settles O9: the split is on whether ST goes from 1 to 0. -/
theorem tickDecrementsTimers : Obligations.TickDecrementsTimers := by
  intro s hrun
  have htick := State.tick_eq hrun
  by_cases hst : s.st = 1
  · rw [if_pos hst] at htick
    rw [htick, if_pos hst, if_pos hst]
    refine ⟨decremented_toNat s.dt, decremented_toNat s.st, rfl, ?_, rfl, rfl, rfl, rfl⟩
    rw [State.callBoundary_halt_eq_ite]
    show (if s.nextReply = .ok then s.halt else _) = _
    cases s.nextReply <;> simp [hst, hrun]
  · rw [if_neg hst] at htick
    rw [htick, if_neg hst, if_neg hst, if_neg (fun h => hst h.1)]
    exact ⟨decremented_toNat s.dt, decremented_toNat s.st, rfl, hrun, rfl, rfl, rfl, rfl⟩

/-- Settles O10: the three answers of `get_key`. -/
theorem keyPollMergesOneEvent : Obligations.KeyPollMergesOneEvent := by
  intro s hrun
  obtain ⟨hr, hpoll⟩ | ⟨k, p, hr, hpoll⟩ | ⟨hr, hpoll⟩ := s.keyPoll_cases hrun
  · rw [hr, hpoll]
    exact ⟨fun _ => ⟨rfl, hrun⟩, nofun, nofun, rfl, rfl, rfl, rfl, rfl⟩
  · rw [hr, hpoll]
    refine ⟨nofun, ?_, nofun, rfl, rfl, rfl, rfl, rfl⟩
    rintro _ _ ⟨⟩
    exact ⟨hrun, fun j => State.setKey_keys_getElem _ k j p⟩
  · rw [hr, hpoll]
    exact ⟨nofun, nofun, fun _ => ⟨rfl, rfl⟩, rfl, rfl, rfl, rfl, rfl⟩

/-- Settles O44: WaitKey with no key set takes back the fetch's advance. -/
theorem waitKeyStepStaysPut : Obligations.WaitKeyStepStaysPut := by
  intro x s hruns hclear
  have hnone : leastSetKey s.atFetch.advancePc.keys = none := (leastSetKey_none _).2 hclear
  have hpc : s.tickIfDue.keyPoll.pc = s.pc := by rw [State.keyPoll_pc, State.tickIfDue_pc]
  have hback : s.atFetch.advancePc.pc - 2 = s.tickIfDue.keyPoll.pc := by
    rw [State.advancePc_pc, State.atFetch_pc, BitVec.add_sub_cancel, hpc]
  rw [step_of_runs hruns, exec_waitKey_of_none _ x hnone, hback]
  exact ⟨rfl, hpc⟩

/-- Settles O59: with no tick due and no event waiting, the turn is the Jump, whose target is where PC stood. -/
theorem jumpToItselfSettles : Obligations.JumpToItselfSettles := by
  intro nnn s hruns hself hbatch hreply
  have htarget : zext16 nnn = s.pc := BitVec.eq_of_toNat_eq ((zext16_toNat nnn).trans hself)
  have hfetch : s.atFetch = s.takeKeyReply.takeSlot := by
    rw [State.atFetch, State.tickIfDue_of_batchLeft_ne_zero hbatch, State.keyPoll, if_pos hruns.1.1, hreply]
  refine ⟨s.takeKeyReply.takeSlot.advancePc.setPc (zext16 nnn), ?_, rfl, rfl, rfl, rfl, rfl, ?_⟩
  · rw [step_of_runs hruns, hfetch]
    rfl
  · show { s with pc := zext16 nnn } = s
    rw [htarget]

end Sys2Proof.Machine
end

section
/-! PROOFS. The invariant `State.sound` and construction (10_state.md R15, R20; 70_reset_and_hazards.md R180 to R184):
construction establishes the invariant, and every step keeps it, part by part. -/

namespace Sys2Proof.Machine

section
variable {s t : State} {i : Instr}

theorem State.sound_iff : s.sound = true ↔
    validConfig s.cfg = true ∧ Memory.wf s.cfg.font s.mem = true ∧
      FrameBuffer.shaped s.cfg.height s.cfg.width s.fb = true ∧ s.pc.toNat ≤ maxPc ∧
      (∀ w ∈ s.stack, w.toNat ≤ memSize) ∧ s.batchLeft ≤ s.cfg.opcodesPerCycle := by
  simp only [State.sound, Bool.and_eq_true, decide_eq_true_eq, List.all_eq_true, and_assoc]

/-! ## The parts of the invariant under an instruction's effect -/

theorem Effect.mem_wf (h : Effect s i t) (hmem : Memory.wf s.cfg.font s.mem = true) :
    Memory.wf t.cfg.font t.mem = true := by
  cases h
  case stored bs hfits _ => exact Memory.writeList_wf _ bs _ _ hfits hmem
  all_goals exact hmem

theorem Effect.fb_shaped (h : Effect s i t) (hfb : FrameBuffer.shaped s.cfg.height s.cfg.width s.fb = true) :
    FrameBuffer.shaped t.cfg.height t.cfg.width t.fb = true := by
  cases h
  case cleared => exact FrameBuffer.blank_shaped _ _
  case drawn x y n => exact (s.drawn_toggles x y n hfb).shape
  all_goals exact hfb

/-- R15: the largest PC is JumpOffset's, since a popped entry is at most 0x1000 and a skip starts from at most 0x1000. -/
theorem Effect.pc_le (h : Effect s i t) (hlow : 2 ≤ s.pc.toNat) (hpc : s.pc.toNat ≤ memSize)
    (hstack : ∀ w ∈ s.stack, w.toNat ≤ memSize) : t.pc.toNat ≤ maxPc := by
  have hskip : ∀ c : Bool, (if c then s.pc + 2 else s.pc).toNat ≤ maxPc := by
    intro c
    unfold memSize at hpc
    unfold maxPc
    split <;> bv_omega
  cases h
  case returned target htop => exact (hstack target (List.mem_of_getLast? htop)).trans (by decide)
  case called nnn => exact zext16_le_maxPc nnn
  case jumped hle _ => exact hle
  case skipped c _ => exact hskip c
  case consumedKey k c _ => exact hskip c
  case retried x =>
    show (s.pc - 2).toNat ≤ maxPc
    unfold memSize at hpc
    unfold maxPc
    bv_omega
  all_goals exact hpc.trans (by decide)

/-- R82: a Call pushes an address after an instruction, so at most 0x1000. -/
theorem Effect.stack_le (h : Effect s i t) (hpc : s.pc.toNat ≤ memSize) (hstack : ∀ w ∈ s.stack, w.toNat ≤ memSize) :
    ∀ w ∈ t.stack, w.toNat ≤ memSize := by
  cases h
  case returned => exact fun w hw => hstack w (List.mem_of_mem_dropLast hw)
  case called nnn =>
    intro w hw
    obtain hw | hw := List.mem_append.1 hw
    · exact hstack w hw
    · rw [List.mem_singleton.1 hw]
      exact hpc
  all_goals exact hstack

/-- An instruction keeps the invariant, PC being past the instruction and no further than the end of memory. -/
theorem Effect.sound (h : Effect s i t) (hlow : 2 ≤ s.pc.toNat) (hpc : s.pc.toNat ≤ memSize) (hs : s.sound = true) :
    t.sound = true := by
  obtain ⟨hcfg, hmem, hfb, -, hstack, hbatch⟩ := State.sound_iff.1 hs
  refine State.sound_iff.2 ⟨?_, h.mem_wf hmem, h.fb_shaped hfb, h.pc_le hlow hpc hstack, h.stack_le hpc hstack, ?_⟩
  · rw [h.cfg]
    exact hcfg
  · rw [h.batchLeft, h.cfg]
    exact hbatch

/-! ## The invariant under the other transitions -/

theorem State.tickIfDue_sound (hs : s.sound = true) : s.tickIfDue.sound = true := by
  rw [State.sound_iff, State.tickIfDue_cfg, State.tickIfDue_mem, State.tickIfDue_fb, State.tickIfDue_pc,
    State.tickIfDue_stack]
  obtain ⟨hcfg, hmem, hfb, hpc, hstack, hbatch⟩ := State.sound_iff.1 hs
  refine ⟨hcfg, hmem, hfb, hpc, hstack, ?_⟩
  by_cases h : s.batchLeft = 0
  · rw [State.tickIfDue_of_batchLeft_eq_zero h]
  · rwa [State.tickIfDue_of_batchLeft_ne_zero h]

theorem State.keyPoll_sound (hs : s.sound = true) : s.keyPoll.sound = true := by
  simpa only [State.sound, State.keyPoll_cfg, State.keyPoll_mem, State.keyPoll_fb, State.keyPoll_pc,
    State.keyPoll_stack, State.keyPoll_batchLeft] using hs

theorem State.takeSlot_sound (hs : s.sound = true) : s.takeSlot.sound = true := by
  obtain ⟨hcfg, hmem, hfb, hpc, hstack, hbatch⟩ := State.sound_iff.1 hs
  exact State.sound_iff.2 ⟨hcfg, hmem, hfb, hpc, hstack, (Nat.sub_le _ _).trans hbatch⟩

theorem State.atFetch_sound (hs : s.sound = true) : s.atFetch.sound = true :=
  State.takeSlot_sound (State.keyPoll_sound (State.tickIfDue_sound hs))

theorem State.advancePc_toNat (hpc : s.pc.toNat ≤ 4094) : s.advancePc.pc.toNat = s.pc.toNat + 2 := by
  rw [State.advancePc_pc]
  bv_omega

theorem State.advancePc_sound (hs : s.sound = true) (hpc : s.pc.toNat ≤ 4094) : s.advancePc.sound = true := by
  obtain ⟨hcfg, hmem, hfb, -, hstack, hbatch⟩ := State.sound_iff.1 hs
  refine State.sound_iff.2 ⟨hcfg, hmem, hfb, ?_, hstack, hbatch⟩
  rw [State.advancePc_toNat hpc, maxPc]
  omega

theorem State.raise_sound (f : Fault) (hs : s.sound = true) : (s.raise f).sound = true := hs

theorem State.initial_sound (cfg : Config) (env : Env) (h : validConfig cfg = true) :
    (State.initial cfg env).sound = true :=
  have hpc : (0x200 : Word).toNat ≤ maxPc := by decide
  State.sound_iff.2 ⟨h, rfl, FrameBuffer.blank_shaped _ _, hpc, nofun, Nat.zero_le _⟩

theorem State.putBytes_sound (a : Nat) (bs : List Byte) (ha : a + bs.length ≤ memSize) (hs : s.sound = true) :
    (s.putBytes a bs).sound = true := by
  obtain ⟨hcfg, hmem, hrest⟩ := State.sound_iff.1 hs
  exact State.sound_iff.2 ⟨hcfg, Memory.writeList_wf _ bs a _ ha hmem, hrest⟩

/-- What construction makes of valid inputs (R180). -/
theorem construct_ok {cfg : Config} {image : List Byte} (env : Env) (hcfg : validConfig cfg = true)
    (himage : image.length ≤ maxImage) :
    construct cfg env image = .ok ((State.initial cfg env).putBytes 0x200 image) := by
  rw [construct, if_neg (not_not_intro hcfg), if_neg himage.not_gt]

/-- A machine is constructed from valid inputs only (R183, R184). -/
theorem valid_of_construct_ok {cfg : Config} {env : Env} {image : List Byte} (h : construct cfg env image = .ok s) :
    validConfig cfg = true ∧ image.length ≤ maxImage := by
  unfold construct at h
  split_ifs at h with hcfg himage
  exact ⟨hcfg, not_lt.1 himage⟩

theorem validConfig_iff (cfg : Config) : validConfig cfg = true ↔
    1 ≤ cfg.opcodesPerCycle ∧ 1 ≤ cfg.timerHz ∧ 8 ≤ cfg.width ∧ 1 ≤ cfg.height :=
  decide_eq_true_iff

end

/-! ## The obligations on the invariant and on construction -/

/-- Settles O52: the tick and the key poll keep the invariant, PC is at most 0x1000 after a fetch, and from there every
effect keeps it. -/
theorem stepKeepsSoundness : Obligations.StepKeepsSoundness := by
  intro s t hs h
  have hfetched := State.atFetch_sound hs
  cases step_turn h
  case tickHalted => exact State.tickIfDue_sound hs
  case pollHalted => exact State.keyPoll_sound (State.tickIfDue_sound hs)
  case fetchFaulted f _ => exact State.raise_sound f hfetched
  case illegalWord f _ hpc => exact State.raise_sound f (State.advancePc_sound hfetched (s.atFetch_pc.symm ▸ hpc))
  case ran i hruns he =>
    have hpc : s.atFetch.pc.toNat ≤ 4094 := s.atFetch_pc.symm ▸ hruns.2.1
    have hadvanced := State.advancePc_toNat hpc
    refine he.sound ?_ ?_ (State.advancePc_sound hfetched hpc)
    · omega
    · unfold memSize
      omega

/-- Settles O53: the customary configuration is valid. -/
theorem resetIsSound : Obligations.ResetIsSound := State.initial_sound _ _ (by decide)

/-- Settles O54: an image that fits is written within memory. -/
theorem constructedMachineIsSound : Obligations.ConstructedMachineIsSound := by
  intro cfg env image s h
  obtain ⟨hcfg, himage⟩ := valid_of_construct_ok h
  obtain rfl := Except.ok.inj ((construct_ok env hcfg himage).symm.trans h)
  refine State.putBytes_sound 0x200 image ?_ (State.initial_sound cfg env hcfg)
  unfold maxImage at himage
  unfold memSize
  omega

/-- Settles O55: an unlisted byte reads as FONT below 80, and as 0 from there on. -/
theorem constructionGivesTheResetValues : Obligations.ConstructionGivesTheResetValues := by
  refine ⟨fun cfg env hcfg => ⟨_, construct_ok env hcfg (Nat.zero_le _), fun r => ?_, rfl, rfl, rfl, rfl, rfl,
    fun k => ?_, FrameBuffer.blank_get _ _, rfl, fun a => dif_pos a.isLt, fun a ha => dif_neg ha.not_gt, rfl, rfl, rfl⟩,
    construct_ok Env.fresh (by decide) (Nat.zero_le _)⟩
  · exact Vector.getElem_replicate ..
  · exact Vector.getElem_replicate ..

/-- Settles O56: the image is written by `putBytes`, so `State.byteAt_putBytes` says what stands where. -/
theorem constructionLoadsTheImage : Obligations.ConstructionLoadsTheImage := by
  intro cfg env image hcfg himage
  refine ⟨_, construct_ok env hcfg himage, fun j hj => ?_, fun a ha => ?_, rfl⟩
  · rw [State.byteAt_putBytes, dif_pos (by omega)]
    simp
  · rw [State.byteAt_putBytes, dif_neg (by omega)]

/-- Settles O57: the two refusals of `construct`, in its order. -/
theorem constructionRefusesInvalidInputs : Obligations.ConstructionRefusesInvalidInputs := by
  intro cfg env image
  constructor
  · intro hbad
    refine if_pos fun hcfg => ?_
    have := (validConfig_iff cfg).1 hcfg
    omega
  · intro hcycle hhz hwidth hheight himage
    have hcfg : validConfig cfg = true := (validConfig_iff cfg).2 ⟨hcycle, hhz, hwidth, hheight⟩
    rw [construct, if_neg (not_not_intro hcfg)]
    exact if_pos himage

end Sys2Proof.Machine
end

section
/-! PROOFS. The index register and memory (20_memory.md R43 to R57, 42_index_and_memory.md R120 to R126): what the two
stores leave in memory, what LoadRegisters and the next fetch read of it. -/

namespace Sys2Proof.Machine

section
variable {s t : State} {x : Nibble}

/-! ## Bytes put into memory -/

theorem State.byteAt_putBytes_add {a j : Nat} {bs : List Byte} (h : j < bs.length) :
    (s.putBytes a bs).byteAt (a + j) = bs[j] := by
  rw [State.byteAt_putBytes, dif_pos (by omega)]
  simp only [Nat.add_sub_cancel_left]

theorem State.byteAt_putBytes_outside {a b : Nat} {bs : List Byte} (h : b < a ∨ a + bs.length ≤ b) :
    (s.putBytes a bs).byteAt b = s.byteAt b := by
  rw [State.byteAt_putBytes, dif_neg (by omega)]

/-- R126: register `r` of a stored range stands at `a + r`. -/
theorem State.byteAt_putBytes_registersTo {a : Nat} {r : Nibble} (hr : r.toNat ≤ x.toNat) :
    (s.putBytes a (s.registersTo x)).byteAt (a + r.toNat) = s.getV r := by
  have hlen : r.toNat < (s.registersTo x).length := by rw [State.registersTo_length]; omega
  rw [State.byteAt_putBytes_add hlen, State.registersTo_getElem]

/-! ## The range check of the register and digit ranges (R46, R126) -/

theorem rangeInMemory_succ_iff (a n : Nat) : rangeInMemory a (n + 1) = true ↔ a + n ≤ 4095 := by
  rw [rangeInMemory_iff]
  omega

theorem State.withRange_succ_in (k : AccessKind) {n : Nat} (t : State) (h : s.i.toNat + n ≤ 4095) :
    s.withRange k (n + 1) t = .next t :=
  s.withRange_in k (n + 1) t ((rangeInMemory_succ_iff _ _).2 h)

theorem State.withRange_succ_out (k : AccessKind) {n : Nat} (t : State) (h : s.i.toNat + n > 4095) :
    s.withRange k (n + 1) t = .next (s.raise (.addressFault k s.i.toNat)) :=
  s.withRange_out k (n + 1) t (Bool.eq_false_iff.2 fun hin => by have := (rangeInMemory_succ_iff _ _).1 hin; omega)

theorem exec_storeBCD (h : s.i.toNat + 2 ≤ 4095) :
    exec (.storeBCD x) s = .next (s.putBytes s.i.toNat (bcdDigits (s.getV x))) :=
  State.withRange_succ_in .write _ h

theorem exec_storeRegisters (h : s.i.toNat + x.toNat ≤ 4095) :
    exec (.storeRegisters x) s = .next (s.putBytes s.i.toNat (s.registersTo x)) :=
  State.withRange_succ_in .write _ h

theorem exec_loadRegisters (h : s.i.toNat + x.toNat ≤ 4095) :
    exec (.loadRegisters x) s = .next (s.loadRegistersTo x) :=
  State.withRange_succ_in .read _ h

/-! ## The digits of StoreBCD (R123) -/

/-- Ones, tens, hundreds at the address of the store and the two after it. -/
theorem State.byteAt_putBytes_bcdDigits (s : State) (a : Nat) (v : Byte) :
    ((s.putBytes a (bcdDigits v)).byteAt a).toNat = v.toNat % 10 ∧
    ((s.putBytes a (bcdDigits v)).byteAt (a + 1)).toNat = v.toNat / 10 % 10 ∧
    ((s.putBytes a (bcdDigits v)).byteAt (a + 2)).toNat = v.toNat / 100 := by
  have hv := v.isLt
  have hdigit : ∀ {j : Nat} (hj : j < (bcdDigits v).length) {d : Nat}, (bcdDigits v)[j] = BitVec.ofNat 8 d → d < 256 →
      ((s.putBytes a (bcdDigits v)).byteAt (a + j)).toNat = d := by
    intro j hj d hd hlt
    rw [State.byteAt_putBytes_add hj, hd, BitVec.toNat_ofNat, Nat.mod_eq_of_lt hlt]
  exact ⟨hdigit (j := 0) (by simp [bcdDigits]) rfl (by omega), hdigit (j := 1) (by simp [bcdDigits]) rfl (by omega),
    hdigit (j := 2) (by simp [bcdDigits]) rfl (by omega)⟩

/-- The frame of LoadRegisters (R125). -/
theorem State.registersBecome_loadRegistersTo (s : State) (x : Nibble) : s.registersBecome (s.loadRegistersTo x)
    (fun r => if r.toNat ≤ x.toNat then s.byteAt (s.i.toNat + r.toNat) else s.getV r) := by
  refine ⟨s.loadRegistersTo_getV x, ?_, s.loadRegistersTo_byteAt x⟩
  unfold State.loadRegistersTo
  rfl

/-- The word that a fetch reads, as a number: high byte first (R43). -/
theorem State.fetchWord_toNat (s : State) (h : s.pc.toNat ≤ 4094) : ∃ w : Word, s.fetchWord = .ok w ∧
    w.toNat = (s.byteAt s.pc.toNat).toNat * 256 + (s.byteAt (s.pc.toNat + 1)).toNat :=
  ⟨_, s.fetchWord_ok h, wordOfBytes_toNat _ _⟩

end

/-! ## The obligations on I and memory -/

/-- Settles O30: the zero extension keeps the number. -/
theorem loadIndexZeroExtends : Obligations.LoadIndexZeroExtends := fun nnn _ => ⟨zext16 nnn, zext16_toNat nnn, rfl⟩

/-- Settles O31: the sum wraps at 16 bits, and five times a byte does not. -/
theorem addIndexAndLoadFontAddrWriteI : Obligations.AddIndexAndLoadFontAddrWriteI := by
  intro x s
  refine ⟨⟨s.i + (s.getV x).setWidth 16, ?_, rfl⟩, ⟨BitVec.ofNat 16 ((s.getV x).toNat * 5), ?_, rfl⟩⟩
  · rw [BitVec.toNat_add, BitVec.toNat_setWidth_of_le (by decide)]
  · have := (s.getV x).isLt
    rw [BitVec.toNat_ofNat, Nat.mod_eq_of_lt (by omega)]

/-- Settles O32: the three digits are the bytes that are put at I, if the range of three exists. -/
theorem storeBCDWritesThreeDigits : Obligations.StoreBCDWritesThreeDigits := by
  intro x s
  refine ⟨fun hin => ?_, fun hout => State.withRange_succ_out .write _ hout⟩
  obtain ⟨hones, htens, hhundreds⟩ := s.byteAt_putBytes_bcdDigits s.i.toNat (s.getV x)
  exact ⟨_, exec_storeBCD hin, hones, htens, hhundreds,
    fun a ha => State.byteAt_putBytes_outside (ha.imp_right Nat.succ_le_of_lt), rfl⟩

/-- Settles O33: the registers are the bytes that are put at I, if their range exists. -/
theorem storeRegistersWritesItsRange : Obligations.StoreRegistersWritesItsRange := by
  intro x s
  refine ⟨fun hin => ⟨_, exec_storeRegisters hin, fun r hr => State.byteAt_putBytes_registersTo hr, fun a ha => ?_, rfl⟩,
    fun hout => State.withRange_succ_out .write _ hout⟩
  refine State.byteAt_putBytes_outside (ha.imp_right fun h => ?_)
  rw [State.registersTo_length]
  omega

/-- Settles O34. -/
theorem loadRegistersReadsItsRange : Obligations.LoadRegistersReadsItsRange := fun x s =>
  ⟨fun hin => ⟨_, exec_loadRegisters hin, s.registersBecome_loadRegistersTo x⟩,
    fun hout => State.withRange_succ_out .read _ hout⟩

/-- Settles O35: the bytes that LoadRegisters reads are those StoreRegisters left. -/
theorem storeThenLoadRestoresRegisters : Obligations.StoreThenLoadRestoresRegisters := by
  intro x s t u hin hstore hmem hcfg hi
  obtain rfl := next_unique (exec_storeRegisters hin) hstore
  replace hi : u.i = s.i := hi
  refine ⟨_, exec_loadRegisters (hi ▸ hin), fun r => ?_⟩
  rw [State.loadRegistersTo_getV, hi, State.byteAt_congr _ _ hmem hcfg]
  split
  · next hr => exact State.byteAt_putBytes_registersTo hr
  · rfl

/-- Settles O58: the fetch reads two bytes that the store has written. -/
theorem storedBytesAreFetchedNext : Obligations.StoredBytesAreFetchedNext := by
  constructor
  · intro x p q s t hin hpq hqx hstore hpc
    obtain ⟨w, hw, hval⟩ := t.fetchWord_toNat (by omega)
    obtain rfl := next_unique (exec_storeRegisters hin) hstore
    rw [hpc, Nat.add_assoc, ← hpq, State.byteAt_putBytes_registersTo (by omega),
      State.byteAt_putBytes_registersTo hqx] at hval
    exact ⟨w, hw, hval⟩
  · intro x s t hin hstore
    have hdigits := s.byteAt_putBytes_bcdDigits s.i.toNat (s.getV x)
    rw [next_unique (exec_storeBCD hin) hstore] at hdigits
    obtain ⟨hones, htens, hhundreds⟩ := hdigits
    constructor
    · intro hpc
      obtain ⟨w, hw, hval⟩ := t.fetchWord_toNat (by omega)
      rw [hpc, hones, htens] at hval
      exact ⟨w, hw, hval⟩
    · intro hpc
      obtain ⟨w, hw, hval⟩ := t.fetchWord_toNat (by omega)
      rw [hpc, htens, Nat.add_assoc, hhundreds] at hval
      exact ⟨w, hw, hval⟩

end Sys2Proof.Machine
end

section
/-! PROOFS. The control flow of 40_fetch_execute_and_control_flow.md (R82 to R90). -/

namespace Sys2Proof.Machine

/-- R82: Return takes the last entry. -/
theorem exec_ret_of_stack {s : State} {rest : List Word} {target : Word} (h : s.stack = rest ++ [target]) :
    exec .ret s = .next { s with pc := target, stack := rest } := by
  have htop : s.stack.getLast? = some target := by rw [h, List.getLast?_concat]
  have hrest : s.stack.dropLast = rest := by rw [h, List.dropLast_concat]
  simp only [exec, execReturn, htop, State.dropTop, State.setPc, hrest]

/-- R82: Return on an empty stack. -/
theorem exec_ret_of_stack_nil {s : State} (h : s.stack = []) : exec .ret s = .next (s.raise .stackUnderflow) := by
  simp only [exec, execReturn, h, List.getLast?_nil]

/-- The skips (R81, R89): a Boolean test as the proposition that it decides. -/
theorem State.skipIf_of_iff (s : State) {c : Bool} {p : Prop} [Decidable p] (h : c = true ↔ p) :
    s.skipIf c = { s with pc := if p then s.pc + 2 else s.pc } := by
  simp only [State.skipIf, State.setPc, h]

/-- Settles O15: the target is the zero extension of nnn. -/
theorem jumpAndCallReplacePc : Obligations.JumpAndCallReplacePc := fun nnn _ =>
  ⟨zext16 nnn, zext16_toNat nnn, rfl, rfl⟩

/-- Settles O16: the two cases of the stack. -/
theorem returnPopsTheLastEntry : Obligations.ReturnPopsTheLastEntry := fun _ =>
  ⟨fun _ _ => exec_ret_of_stack, exec_ret_of_stack_nil⟩

/-- Settles O17: what a Call leaves is the stack it found with the address after it. -/
theorem callThenReturnResumes : Obligations.CallThenReturnResumes := by
  intro nnn s t u hcall hstack
  cases hcall
  exact exec_ret_of_stack hstack

/-- Settles O18: each test decides the equality, or the inequality, of its operands. -/
theorem skipsMovePcByTwo : Obligations.SkipsMovePcByTwo := fun _ _ _ s =>
  ⟨congrArg _ (s.skipIf_of_iff beq_iff_eq), congrArg _ (s.skipIf_of_iff bne_iff_ne),
    congrArg _ (s.skipIf_of_iff beq_iff_eq), congrArg _ (s.skipIf_of_iff bne_iff_ne)⟩

/-- Settles O19: the register is the one that `legacy` selects, and the sum does not wrap. -/
theorem jumpOffsetAddsTheSelectedRegister : Obligations.JumpOffsetAddsTheSelectedRegister := by
  intro nnn x s
  refine ⟨_, ?_, rfl⟩
  rw [offsetTarget_toNat, State.offsetRegister, apply_ite s.getV]

end Sys2Proof.Machine
end

section
/-! PROOFS. Load, logic and arithmetic (41_load_and_alu.md): a handler's result and flag as numbers, and the frame of a
register write. -/

namespace Sys2Proof.Machine

section
variable (s : State) (x : Nibble) (a b : Byte) (c : Bool)

/-! ## The frame of a register write (R100) -/

theorem State.registersBecome_setV :
    s.registersBecome (s.setV x b) (fun r => if r = x then b else s.getV r) :=
  ⟨fun r => s.setV_getV x r b, rfl, fun _ => rfl⟩

theorem State.registersBecome_setResultAndFlag :
    s.registersBecome (s.setResultAndFlag x b c)
      (fun r => if r = 0xF then flagByte c else if r = x then b else s.getV r) :=
  ⟨fun r => s.setResultAndFlag_getV x r b c, rfl, fun _ => rfl⟩

theorem State.setResultAndFlag_flag : (s.setResultAndFlag x b c).getV 0xF = flagByte c := by
  rw [State.setResultAndFlag_getV, vf, if_pos rfl]

/-! ## Results and flags as numbers (R102, R107 to R111) -/

theorem add_eq_ofNat : a + b = BitVec.ofNat 8 ((a.toNat + b.toNat) % 256) := by bv_omega

theorem sub_eq_ofNat : a - b = BitVec.ofNat 8 ((256 + a.toNat - b.toNat) % 256) := by bv_omega

theorem ushiftRight_one_eq_ofNat : a >>> 1 = BitVec.ofNat 8 (a.toNat / 2) := by bv_omega

theorem shiftLeft_one_eq_ofNat : a <<< 1 = BitVec.ofNat 8 (a.toNat * 2 % 256) := by bv_omega

theorem flagByte_eq_ofNat : flagByte c = BitVec.ofNat 8 c.toNat := by cases c <;> rfl

theorem flagByte_decide (p : Prop) [Decidable p] : flagByte (decide p) = if p then 1 else 0 := by
  by_cases h : p <;> simp [h, flagByte]

theorem flagByte_getLsbD (j : Nat) : flagByte (a.getLsbD j) = BitVec.ofNat 8 (a.toNat / 2 ^ j % 2) := by
  rw [flagByte_eq_ofNat, BitVec.getLsbD, Nat.toNat_testBit]

theorem flagByte_bit0 : flagByte (a.getLsbD 0) = BitVec.ofNat 8 (a.toNat % 2) := by
  rw [flagByte_getLsbD, Nat.pow_zero, Nat.div_one]

theorem flagByte_bit7 : flagByte (a.getLsbD 7) = BitVec.ofNat 8 (a.toNat / 128) := by
  have := a.isLt
  exact (flagByte_getLsbD a 7).trans (congrArg _ (Nat.mod_eq_of_lt (by omega)))

/-- The two bits that ShiftLeft's flag may be (R111). -/
theorem flagByte_shiftLeftFlag (cfg : Config) : flagByte (shiftLeftFlag cfg a) =
    if cfg.legacy ∨ cfg.shlFlagBit = .bit7 then BitVec.ofNat 8 (a.toNat / 128) else BitVec.ofNat 8 (a.toNat % 2) := by
  unfold shiftLeftFlag
  cases cfg.legacy <;> cases cfg.shlFlagBit
  case false.bit0 => exact flagByte_bit0 a
  all_goals exact flagByte_bit7 a

end

/-! ## The obligations -/

/-- Settles O20: both are one register write. -/
theorem loadImmAndMoveWriteTheirDestination : Obligations.LoadImmAndMoveWriteTheirDestination := fun x y nn s =>
  ⟨⟨_, rfl, s.registersBecome_setV x nn⟩, ⟨_, rfl, s.registersBecome_setV x (s.getV y)⟩⟩

/-- Settles O21: one register write, of the wrapped sum. -/
theorem addImmWrapsWithoutFlag : Obligations.AddImmWrapsWithoutFlag := fun x nn s =>
  ⟨_, rfl, add_eq_ofNat (s.getV x) nn ▸ s.registersBecome_setV x _⟩

/-- Settles O22: each operation of the model is the bitwise one, and the frame is that of one register write. -/
theorem logicWorksBitByBit : Obligations.LogicWorksBitByBit := by
  intro x y s
  refine ⟨_, _, _, rfl, rfl, rfl, fun b hb => ?_, fun t ht => ?_⟩
  · simp only [State.setV_getV, if_true, BitVec.getLsbD_or, BitVec.getLsbD_and, BitVec.getLsbD_xor, and_self]
  · obtain ⟨v, rfl⟩ : ∃ v, t = s.setV x v := by
      simp only [List.mem_cons, List.not_mem_nil, or_false] at ht
      obtain rfl | rfl | rfl := ht <;> exact ⟨_, rfl⟩
    exact ⟨fun r hr => by rw [State.setV_getV, if_neg hr], rfl, fun _ => rfl⟩

/-- Settles O23: the write-back of a flag-writing instruction, of the wrapped sum and its carry. -/
theorem addRegAddsAndFlagsTheCarry : Obligations.AddRegAddsAndFlagsTheCarry := by
  intro x y s
  rw [← add_eq_ofNat, ← flagByte_decide]
  exact ⟨_, rfl, s.registersBecome_setResultAndFlag x _ _⟩

/-- Settles O24: one argument for the two orders of the operands. -/
theorem subtractsAndFlagsStrictlyGreater : Obligations.SubtractsAndFlagsStrictlyGreater := by
  have hsub : ∀ (s : State) (x : Nibble) (a b : Byte),
      s.registersBecome (s.setResultAndFlag x (a - b) (strictlyGreater a b)) (fun r =>
        if r = 0xF then (if a.toNat > b.toNat then 1 else 0)
        else if r = x then BitVec.ofNat 8 ((256 + a.toNat - b.toNat) % 256) else s.getV r) := by
    intro s x a b
    rw [← sub_eq_ofNat, ← flagByte_decide]
    exact s.registersBecome_setResultAndFlag x (a - b) (strictlyGreater a b)
  exact fun x y s => ⟨⟨_, rfl, hsub s x (s.getV x) (s.getV y)⟩, ⟨_, rfl, hsub s x (s.getV y) (s.getV x)⟩⟩

/-- Settles O25: bit 0 of the source is its remainder by 2. -/
theorem shiftRightHalvesItsSource : Obligations.ShiftRightHalvesItsSource := by
  rintro x y s _ rfl
  rw [← flagByte_bit0, ← ushiftRight_one_eq_ofNat]
  exact ⟨_, rfl, s.registersBecome_setResultAndFlag x _ _⟩

/-- Settles O26: the flag is bit 7 or bit 0 of the source. -/
theorem shiftLeftDoublesItsSource : Obligations.ShiftLeftDoublesItsSource := by
  rintro x y s _ rfl
  rw [← flagByte_shiftLeftFlag, ← shiftLeft_one_eq_ofNat]
  exact ⟨_, rfl, s.registersBecome_setResultAndFlag x _ _⟩

/-- Settles O27: one given byte is used up, whatever it is. -/
theorem randomMasksTheNextByte : Obligations.RandomMasksTheNextByte := by
  intro x nn s
  refine ⟨_, rfl, fun r => ?_, fun b rest hbytes => ?_, rfl, rfl, rfl, rfl, fun _ => rfl⟩
  · rw [State.setV_getV, State.takeRandom_getV]
  · rw [State.nextRandom, State.setV_env, State.takeRandom_env, Env.afterRandom_randomBytes, hbytes]
    exact ⟨rfl, rfl⟩

/-- Settles O28: each of the six writes a `flagByte` to VF last, unless the Draw could not read its sprite. -/
theorem flagIsZeroOrOne : Obligations.FlagIsZeroOrOne := by
  intro i s t hflag h
  have hbit : ∀ {u : State} {c : Bool}, u.getV 0xF = flagByte c → u.getV 0xF = 0 ∨ u.getV 0xF = 1 :=
    fun hu => hu ▸ flagByte_zero_or_one _
  cases i
  case addReg | subXY | subYX | shiftRight | shiftLeft =>
    cases h
    exact or_assoc.1 (.inl (hbit (s.setResultAndFlag_flag _ _ _)))
  case draw x y n =>
    obtain ⟨-, rfl⟩ | ⟨-, rfl⟩ := (s.withRange_next .read n.toNat (s.afterDraw x y n) t).1 h
    · exact or_assoc.1 (.inl (hbit (State.afterDraw_flag x y n)))
    · exact .inr (.inr rfl)
  all_goals exact absurd hflag nofun

end Sys2Proof.Machine
end

section
/-! PROOFS. The key skips and the timers' instructions (44_keys_and_timers.md R140, R141, R143 to R145). -/

namespace Sys2Proof.Machine

section
variable {s : State} {x : Nibble}

theorem exec_skipKeyDown_of_some {k : Fin 16} (h : keyIndex (s.getV x) = some k) : exec (.skipKeyDown x) s =
    .next (if s.keys[k.val] then (s.setKey k false).skipIf true else s) := by
  simp only [exec, execSkipKeyDown, h]

theorem exec_skipKeyUp_of_some {k : Fin 16} (h : keyIndex (s.getV x) = some k) : exec (.skipKeyUp x) s =
    .next ((s.skipIf (!s.keys[k.val])).setKey k false) := by
  simp only [exec, execSkipKeyUp, h]

theorem exec_skipKeyDown_of_none (h : keyIndex (s.getV x) = none) :
    exec (.skipKeyDown x) s = .next (s.raise (.keyIndexFault (s.getV x))) := by
  simp only [exec, execSkipKeyDown, h]

theorem exec_skipKeyUp_of_none (h : keyIndex (s.getV x) = none) :
    exec (.skipKeyUp x) s = .next (s.raise (.keyIndexFault (s.getV x))) := by
  simp only [exec, execSkipKeyUp, h]

/-- R145: ST rises from 0. -/
theorem exec_setSound_of_rising (hst : s.st = 0) (hx : s.getV x ≠ 0) :
    exec (.setSound x) s = .next ((s.setSt (s.getV x)).callBoundary .startBeep .startBeep) :=
  if_pos ⟨hst, hx⟩

theorem exec_setSound_of_not_rising (h : s.st ≠ 0 ∨ s.getV x = 0) :
    exec (.setSound x) s = .next (s.setSt (s.getV x)) :=
  if_neg fun ⟨hst, hx⟩ => h.elim (· hst) hx

end

/-- Settles O41: SkipKeyUp skips on the flag's complement. -/
theorem keySkipsConsumeTheFlag : Obligations.KeySkipsConsumeTheFlag := by
  intro x s k hk
  have hkey := (keyIndex_some (s.getV x) k).2 hk
  refine ⟨exec_skipKeyDown_of_some hkey, (exec_skipKeyUp_of_some hkey).trans ?_⟩
  rw [s.skipIf_of_iff (p := ¬ s.keys[k.val] = true) (by simp), ite_not]
  rfl

/-- Settles O42: such a register names no key. -/
theorem keyIndexAbove15Faults : Obligations.KeyIndexAbove15Faults := by
  intro x s hx
  have hnone := (keyIndex_none (s.getV x)).2 hx
  exact ⟨exec_skipKeyDown_of_none hnone, exec_skipKeyUp_of_none hnone⟩

/-- Settles O45: GetDelay is one register write. -/
theorem delayTimerIsReadAndWritten : Obligations.DelayTimerIsReadAndWritten := fun x s =>
  ⟨⟨_, rfl, s.registersBecome_setV x s.dt⟩, rfl⟩

/-- Settles O46: the boundary is asked on a rising edge only, after ST is written. -/
theorem setSoundStartsTheBeepOnARisingEdge : Obligations.SetSoundStartsTheBeepOnARisingEdge := by
  intro x s
  refine ⟨fun hst hx => ?_, exec_setSound_of_not_rising⟩
  exact ⟨_, exec_setSound_of_rising hst hx, rfl, rfl, rfl, rfl, rfl, State.callBoundary_halt_eq_ite _ _ _, rfl⟩

end Sys2Proof.Machine
end

section
/-! PROOFS. Noninterference (60_exceptions.md R167): what an instruction makes of a state depends on the outside world only
in HALT and, for Random, in its destination register. -/

namespace Sys2Proof.Machine

section
variable {s t u : State} {i : Instr} {e : Env}

/-- `t` and `u` differ at most in the outside world and in HALT. -/
def State.AgreesInside (t u : State) : Prop := { u with halt := t.halt, env := t.env } = t

theorem State.agreesInside_loadRegistersTo (s : State) (e : Env) (x : Nibble) :
    (s.loadRegistersTo x).AgreesInside (State.loadRegistersTo { s with env := e } x) := by
  unfold State.AgreesInside State.loadRegistersTo
  rfl

theorem State.AgreesInside.of_exec {t' u' : State} (ht : exec i s = .next t) (hu : exec i { s with env := e } = .next u)
    (ht' : exec i s = .next t') (hu' : exec i { s with env := e } = .next u') (h : t'.AgreesInside u') :
    t.AgreesInside u := by
  obtain rfl := next_unique ht' ht
  obtain rfl := next_unique hu' hu
  exact h

/-- The range check at `I` does not see the outside world. -/
theorem State.AgreesInside.of_withRange {k : AccessKind} {n : Nat} {t' u' : State} (ht : s.withRange k n t' = .next t)
    (hu : State.withRange { s with env := e } k n u' = .next u) (h : t'.AgreesInside u') : t.AgreesInside u := by
  cases hin : rangeInMemory s.i.toNat n with
  | true =>
    obtain rfl := next_unique (s.withRange_in k n t' hin) ht
    obtain rfl := next_unique (State.withRange_in { s with env := e } k n u' hin) hu
    exact h
  | false =>
    obtain rfl := next_unique (s.withRange_out k n t' hin) ht
    obtain rfl := next_unique (State.withRange_out { s with env := e } k n u' hin) hu
    rfl

/-- An instruction other than Random makes states that agree inside of states that do. -/
theorem exec_agreesInside (hi : ∀ x nn, i ≠ .random x nn) (ht : exec i s = .next t)
    (hu : exec i { s with env := e } = .next u) : t.AgreesInside u := by
  cases i
  case random x nn => exact absurd rfl (hi x nn)
  case ret =>
    cases htop : s.stack.getLast? <;> simp only [exec, execReturn, htop] at ht hu <;> cases ht <;> cases hu <;> rfl
  case skipKeyDown x =>
    cases hk : keyIndex (s.getV x) with
    | none => exact .of_exec ht hu (exec_skipKeyDown_of_none hk) (exec_skipKeyDown_of_none hk) rfl
    | some k =>
      refine .of_exec ht hu (exec_skipKeyDown_of_some hk) (exec_skipKeyDown_of_some hk) ?_
      split <;> rfl
  case skipKeyUp x =>
    cases hk : keyIndex (s.getV x) with
    | none => exact .of_exec ht hu (exec_skipKeyUp_of_none hk) (exec_skipKeyUp_of_none hk) rfl
    | some k => exact .of_exec ht hu (exec_skipKeyUp_of_some hk) (exec_skipKeyUp_of_some hk) rfl
  case waitKey x =>
    cases hk : leastSetKey s.keys with
    | none => exact .of_exec ht hu (exec_waitKey_of_none _ x hk) (exec_waitKey_of_none _ x hk) rfl
    | some k => exact .of_exec ht hu (exec_waitKey_of_some _ x hk) (exec_waitKey_of_some _ x hk) rfl
  case setSound x =>
    by_cases hrise : s.st ≠ 0 ∨ s.getV x = 0
    · exact .of_exec ht hu (exec_setSound_of_not_rising hrise) (exec_setSound_of_not_rising hrise) rfl
    · obtain ⟨hst, hx⟩ := not_or.1 hrise
      exact .of_exec ht hu (exec_setSound_of_rising (not_not.1 hst) hx) (exec_setSound_of_rising (not_not.1 hst) hx) rfl
  case storeBCD | storeRegisters => exact .of_withRange ht hu rfl
  case loadRegisters x => exact .of_withRange ht hu (State.agreesInside_loadRegistersTo s e x)
  case draw x y n => exact .of_withRange ht hu rfl
  all_goals
    cases ht
    cases hu
    rfl

end

/-- Settles O48: only Random writes a register from the outside world, and only its destination. -/
theorem outsideWorldReachesOnlyHaltAndRandom : Obligations.OutsideWorldReachesOnlyHaltAndRandom := by
  intro i s t u e ht hu
  by_cases hi : ∀ x nn, i ≠ .random x nn
  · have h := exec_agreesInside hi ht hu
    rw [State.AgreesInside] at h
    rw [← h]
    exact ⟨rfl, fun _ _ => rfl⟩
  · push Not at hi
    obtain ⟨x, nn, rfl⟩ := hi
    cases ht
    cases hu
    refine ⟨rfl, fun r hr => ?_⟩
    have hrx : r ≠ x := by
      rintro rfl
      exact hr nn rfl
    rw [State.setV_getV, State.setV_getV, if_neg hrx, if_neg hrx]
    rfl

end Sys2Proof.Machine
end
